-- ==== Sys2Proof/Word.lean ====
section
/-! DEFINITION. The two word types of the block: the 64-bit data word and the 32-bit command word (rules R5, R6). -/

namespace Sys2Proof

/-- A data word: every state word, output and seed is a 64-bit unsigned integer (R5, R6). Bit 0 is the least significant. -/
abbrev Word64 := BitVec 64

/-- The command word `W` (R40). Bit 31 is the most significant. -/
abbrev CommandWord := BitVec 32

end Sys2Proof
end

