-- ==== Sys2Proof/Syntax.lean ====
section
/-! DEFINITION. The units, the 27 instructions and the command a host presents (rules R1, R4, R40 to R43). -/

namespace Sys2Proof

/-- The four units, in the order of R1 and R42. -/
inductive UnitId where
  | sm64
  | xs128
  | xo128
  | xs1024
deriving DecidableEq, Repr

/-- `STATE_SIZE(u)` (R4): the number of words of a unit's state array. The cursor of `XS1024` is not counted. -/
def UnitId.stateSize : UnitId → Nat
  | .sm64 => 1
  | .xs128 => 2
  | .xo128 => 2
  | .xs1024 => 16

/-- One constructor per row of the opcode table: an operation with the unit it works on (R41, R43). `SEED` carries its
source unit (field `S`), `GEN` its count (field `N`, R50; log entry 14 on its type). The payload of `LDS` is no field of the
instruction: it comes beside the command word (R40, R44). There is no `JUMP` of `SM64` (R64). -/
inductive Instr where
  | nextSm64
  | nextXs128
  | nextXo128
  | nextXs1024
  | jumpXs128
  | jumpXo128
  | jumpXs1024
  | ldsSm64
  | ldsXs128
  | ldsXo128
  | ldsXs1024
  | rdsSm64
  | rdsXs128
  | rdsXo128
  | rdsXs1024
  | seedSm64 (source : UnitId)
  | seedXs128 (source : UnitId)
  | seedXo128 (source : UnitId)
  | seedXs1024 (source : UnitId)
  | genSm64 (count : Nat)
  | genXs128 (count : Nat)
  | genXo128 (count : Nat)
  | genXs1024 (count : Nat)
  | sizeSm64
  | sizeXs128
  | sizeXo128
  | sizeXs1024
deriving DecidableEq, Repr

/-- A command is a pair `(W, P)`: the command word and the payload, a list of zero or more words, first word first (R40, R44). -/
structure Command where
  word : CommandWord
  payload : List Word64
deriving DecidableEq, Repr

end Sys2Proof
end

