-- ==== Sys2Proof/WellFormed.lean ====
section
/-! DEFINITION. Which instructions the encoding can express: the count of `GEN` fits the 16-bit field `N` (rules R5, R50). -/

namespace Sys2Proof

/-- `GEN_N_W` is 16 bits, so a count is 0 to 65535 (R5, R50, R110). -/
def countFits (count : Nat) : Bool := decide (count < 65536)

/-- An instruction is well formed when each operand fits its field. All four values of a unit field are legal (R42), so the
count of `GEN` is the only operand with a check. -/
def Instr.wellFormed : Instr → Bool
  | .genSm64 n => countFits n
  | .genXs128 n => countFits n
  | .genXo128 n => countFits n
  | .genXs1024 n => countFits n
  | .nextSm64 => true
  | .nextXs128 => true
  | .nextXo128 => true
  | .nextXs1024 => true
  | .jumpXs128 => true
  | .jumpXo128 => true
  | .jumpXs1024 => true
  | .ldsSm64 => true
  | .ldsXs128 => true
  | .ldsXo128 => true
  | .ldsXs1024 => true
  | .rdsSm64 => true
  | .rdsXs128 => true
  | .rdsXo128 => true
  | .rdsXs1024 => true
  | .seedSm64 _ => true
  | .seedXs128 _ => true
  | .seedXo128 _ => true
  | .seedXs1024 _ => true
  | .sizeSm64 => true
  | .sizeXs128 => true
  | .sizeXo128 => true
  | .sizeXs1024 => true

end Sys2Proof
end

