-- ==== Sys2Proof/Decode.lean ====
section
/-! DEFINITION. Decoding a command word by step 1 of rule R47, and encoding an instruction by the field layout of rule R40 and
the opcode map of rule R41. Both follow 30_encoding.md. -/

namespace Sys2Proof

/-! ## The fields of a command word (R40) -/

/-- `OP`, bits 31:28. -/
def opField (w : CommandWord) : BitVec 4 := w.extractLsb' 28 4

/-- `T`, bits 27:26: the unit operated on. -/
def tField (w : CommandWord) : BitVec 2 := w.extractLsb' 26 2

/-- `S`, bits 25:24: the source unit of `SEED`. -/
def sField (w : CommandWord) : BitVec 2 := w.extractLsb' 24 2

/-- `Z`, bits 23:16: must be 0. -/
def zField (w : CommandWord) : BitVec 8 := w.extractLsb' 16 8

/-- `N`, bits 15:0: the count of `GEN`, unsigned, not scaled (R50). -/
def nField (w : CommandWord) : BitVec 16 := w.extractLsb' 0 16

/-- A command word from its five fields, `OP` in the high bits (R40). -/
def packFields (op : BitVec 4) (t s : BitVec 2) (z : BitVec 8) (n : BitVec 16) : CommandWord :=
  op ++ t ++ s ++ z ++ n

/-! ## Unit numbers (R42) and operation codes (R41) -/

/-- The unit number of R42, as used in `T` and `S`. -/
def unitNumber : UnitId → BitVec 2
  | .sm64 => 0
  | .xs128 => 1
  | .xo128 => 2
  | .xs1024 => 3

/-- The unit a number names. All four values of the field are used (R42). -/
def unitOfNumber (b : BitVec 2) : UnitId :=
  match b.toNat with
  | 0 => .sm64
  | 1 => .xs128
  | 2 => .xo128
  | _ => .xs1024

/-- The seven operations of the opcode map (R41). -/
inductive Operation where
  | next
  | jump
  | lds
  | rds
  | seed
  | gen
  | size
deriving DecidableEq, Repr

/-- The `OP` code of an operation (R41). -/
def operationCode : Operation → BitVec 4
  | .next => 0x1
  | .jump => 0x2
  | .lds => 0x3
  | .rds => 0x4
  | .seed => 0x5
  | .gen => 0x6
  | .size => 0x7

/-- The operation an `OP` code selects; `0x0` and `0x8` to `0xF` select none (R41, R48). -/
def operationOfCode (b : BitVec 4) : Option Operation :=
  match b.toNat with
  | 1 => some .next
  | 2 => some .jump
  | 3 => some .lds
  | 4 => some .rds
  | 5 => some .seed
  | 6 => some .gen
  | 7 => some .size
  | _ => none

/-! ## Decoding -/

/-- Why a word is illegal: the classes of R48, in the order R47 checks them. All of them answer `ERR_ILLEGAL`. -/
inductive Illegal where
  /-- `OP` is `0x0` or `0x8` to `0xF`. -/
  | reservedOperation
  /-- `Z` is not 0. -/
  | reservedZ
  /-- `S` is not 0 and the operation is not `SEED`. -/
  | sourceWithoutSeed
  /-- `N` is not 0 and the operation is not `GEN`. -/
  | countWithoutGen
  /-- `JUMP` with `T` = 0: SplitMix64 has no jump (R64). -/
  | jumpOfSm64
deriving DecidableEq, Repr

def nextOf : UnitId → Instr
  | .sm64 => .nextSm64
  | .xs128 => .nextXs128
  | .xo128 => .nextXo128
  | .xs1024 => .nextXs1024

/-- `JUMP` exists for three units (R41, R64). -/
def jumpOf : UnitId → Option Instr
  | .sm64 => none
  | .xs128 => some .jumpXs128
  | .xo128 => some .jumpXo128
  | .xs1024 => some .jumpXs1024

def ldsOf : UnitId → Instr
  | .sm64 => .ldsSm64
  | .xs128 => .ldsXs128
  | .xo128 => .ldsXo128
  | .xs1024 => .ldsXs1024

def rdsOf : UnitId → Instr
  | .sm64 => .rdsSm64
  | .xs128 => .rdsXs128
  | .xo128 => .rdsXo128
  | .xs1024 => .rdsXs1024

/-- `SEED t, s`: target first, source second (R51, R100). -/
def seedOf (target source : UnitId) : Instr :=
  match target with
  | .sm64 => .seedSm64 source
  | .xs128 => .seedXs128 source
  | .xo128 => .seedXo128 source
  | .xs1024 => .seedXs1024 source

def genOf (u : UnitId) (count : Nat) : Instr :=
  match u with
  | .sm64 => .genSm64 count
  | .xs128 => .genXs128 count
  | .xo128 => .genXo128 count
  | .xs1024 => .genXs1024 count

def sizeQueryOf : UnitId → Instr
  | .sm64 => .sizeSm64
  | .xs128 => .sizeXs128
  | .xo128 => .sizeXo128
  | .xs1024 => .sizeXs1024

/-- The instruction of an operation with its operands, or why there is none. -/
def selectInstr (op : Operation) (t s : UnitId) (count : Nat) : Except Illegal Instr :=
  match op with
  | .next => .ok (nextOf t)
  | .jump =>
    match jumpOf t with
    | some i => .ok i
    | none => .error .jumpOfSm64
  | .lds => .ok (ldsOf t)
  | .rds => .ok (rdsOf t)
  | .seed => .ok (seedOf t s)
  | .gen => .ok (genOf t count)
  | .size => .ok (sizeQueryOf t)

/-- Step 1 of R47, line by line: the legality of the command word. Total on all 2^32 words, in every state (R49). -/
def decode (w : CommandWord) : Except Illegal Instr :=
  match operationOfCode (opField w) with
  | none => .error .reservedOperation
  | some op =>
    if zField w ≠ 0 then .error .reservedZ
    else if op ≠ .seed ∧ sField w ≠ 0 then .error .sourceWithoutSeed
    else if op ≠ .gen ∧ nField w ≠ 0 then .error .countWithoutGen
    else selectInstr op (unitOfNumber (tField w)) (unitOfNumber (sField w)) (nField w).toNat

/-! ## Encoding -/

/-- The word of an operation on a unit whose other fields are 0. -/
def plainWord (op : Operation) (t : UnitId) : CommandWord :=
  packFields (operationCode op) (unitNumber t) 0 0 0

/-- The word of `SEED t, s` (R43). -/
def seedWord (t s : UnitId) : CommandWord :=
  packFields (operationCode .seed) (unitNumber t) (unitNumber s) 0 0

/-- The word of `GEN u, n` (R43); a count that does not fit the field is cut to 16 bits, and is not well formed. -/
def genWord (t : UnitId) (count : Nat) : CommandWord :=
  packFields (operationCode .gen) (unitNumber t) 0 0 (BitVec.ofNat 16 count)

/-- The command word of an instruction (R41, R43). -/
def encode : Instr → CommandWord
  | .nextSm64 => plainWord .next .sm64
  | .nextXs128 => plainWord .next .xs128
  | .nextXo128 => plainWord .next .xo128
  | .nextXs1024 => plainWord .next .xs1024
  | .jumpXs128 => plainWord .jump .xs128
  | .jumpXo128 => plainWord .jump .xo128
  | .jumpXs1024 => plainWord .jump .xs1024
  | .ldsSm64 => plainWord .lds .sm64
  | .ldsXs128 => plainWord .lds .xs128
  | .ldsXo128 => plainWord .lds .xo128
  | .ldsXs1024 => plainWord .lds .xs1024
  | .rdsSm64 => plainWord .rds .sm64
  | .rdsXs128 => plainWord .rds .xs128
  | .rdsXo128 => plainWord .rds .xo128
  | .rdsXs1024 => plainWord .rds .xs1024
  | .seedSm64 s => seedWord .sm64 s
  | .seedXs128 s => seedWord .xs128 s
  | .seedXo128 s => seedWord .xo128 s
  | .seedXs1024 s => seedWord .xs1024 s
  | .genSm64 n => genWord .sm64 n
  | .genXs128 n => genWord .xs128 n
  | .genXo128 n => genWord .xo128 n
  | .genXs1024 n => genWord .xs1024 n
  | .sizeSm64 => plainWord .size .sm64
  | .sizeXs128 => plainWord .size .xs128
  | .sizeXo128 => plainWord .size .xo128
  | .sizeXs1024 => plainWord .size .xs1024

/-- The row of the table of R43 an instruction belongs to: `match` and `mask`. A word is the instruction's, up to its free
fields, exactly when `(W & mask) = match`. -/
def tableRow : Instr → CommandWord × CommandWord
  | .nextSm64 => (0x10000000, 0xFFFFFFFF)
  | .nextXs128 => (0x14000000, 0xFFFFFFFF)
  | .nextXo128 => (0x18000000, 0xFFFFFFFF)
  | .nextXs1024 => (0x1C000000, 0xFFFFFFFF)
  | .jumpXs128 => (0x24000000, 0xFFFFFFFF)
  | .jumpXo128 => (0x28000000, 0xFFFFFFFF)
  | .jumpXs1024 => (0x2C000000, 0xFFFFFFFF)
  | .ldsSm64 => (0x30000000, 0xFFFFFFFF)
  | .ldsXs128 => (0x34000000, 0xFFFFFFFF)
  | .ldsXo128 => (0x38000000, 0xFFFFFFFF)
  | .ldsXs1024 => (0x3C000000, 0xFFFFFFFF)
  | .rdsSm64 => (0x40000000, 0xFFFFFFFF)
  | .rdsXs128 => (0x44000000, 0xFFFFFFFF)
  | .rdsXo128 => (0x48000000, 0xFFFFFFFF)
  | .rdsXs1024 => (0x4C000000, 0xFFFFFFFF)
  | .seedSm64 _ => (0x50000000, 0xFCFFFFFF)
  | .seedXs128 _ => (0x54000000, 0xFCFFFFFF)
  | .seedXo128 _ => (0x58000000, 0xFCFFFFFF)
  | .seedXs1024 _ => (0x5C000000, 0xFCFFFFFF)
  | .genSm64 _ => (0x60000000, 0xFFFF0000)
  | .genXs128 _ => (0x64000000, 0xFFFF0000)
  | .genXo128 _ => (0x68000000, 0xFFFF0000)
  | .genXs1024 _ => (0x6C000000, 0xFFFF0000)
  | .sizeSm64 => (0x70000000, 0xFFFFFFFF)
  | .sizeXs128 => (0x74000000, 0xFFFFFFFF)
  | .sizeXo128 => (0x78000000, 0xFFFFFFFF)
  | .sizeXs1024 => (0x7C000000, 0xFFFFFFFF)

/-! ## Words as the opcode table numbers them -/

/-- The command word whose bits are `w`, of which the table gives `nbits`; the bits above are 0. A command word has 32 bits
(R40), so a longer row is no command word of this block (log entry 10). -/
def tableWord (nbits w : Nat) : Option CommandWord :=
  if nbits ≤ 32 then some (BitVec.ofNat 32 (w % 2 ^ nbits)) else none

/-- The instruction this decoder reads from a word of the opcode table. -/
def decodeTableWord (nbits w : Nat) : Option Instr :=
  match tableWord nbits w with
  | none => none
  | some word =>
    match decode word with
    | .ok i => some i
    | .error _ => none

end Sys2Proof
end

