-- ==== Sys2Proof/Config.lean ====
section
/-! DEFINITION. What the spec leaves to the implementation: the free values that stand for unspecified register contents
(rule R22, entry U1 of 93_implementation_defined.md) and the parameter `JUMP1024` (rule R95, decision D23). -/

namespace Sys2Proof.Config

/-- FREE VALUES: the contents of data words the spec leaves unspecified ("a model must not give them a value", R22). It has no
body, so nothing can be proved of any value of it. The n-th unspecified content is `freeWord n` (log entries 5 and 6). -/
opaque freeWord : Nat → Word64

/-- The parameter `JUMP1024[0..15]` (R95): the default table the spec prints and audits ("the unique value that satisfies XSC
§4.4 given rule R93"). PRESUMED, since the spec has it from general knowledge (log entry 8). -/
def jump1024 : List Word64 :=
  [0x84242F96ECA9C41D, 0xA3C65B8776F96855, 0x5B34A39F070B5837, 0x4489AFFCE4F31A1E,
   0x2FFEEB0A48316F40, 0xDC2D9891FE68C022, 0x3659132BB12FEA70, 0xAAC17D8EFA43CAB8,
   0xC4CB815590989B13, 0x5EE975283D71C93B, 0x691548C86C1BD540, 0x7910C41D10A1E6A5,
   0x0B5FC64563B3E2A8, 0x047F7684E9FC949D, 0xB99181F2D8F685CA, 0x284600E3F30E38C3]

end Sys2Proof.Config
end

