-- ==== Sys2Proof/Machine/State.lean ====
section
/-! DEFINITION. The state of the block (10_state.md, rules R10 to R23), the model's own fields around it (the commands the host
presents and the responses it gets), the ways a step could stop, and the state after reset (rule R22). -/

namespace Sys2Proof.Machine

open Sys2Proof

/-- The register of unit `SM64` (R10). -/
structure Sm64Regs where
  x : Word64
deriving DecidableEq, Repr

/-- The registers `XS128.s[0]` and `XS128.s[1]` (R11), under their indexed names (C2). -/
structure Xs128Regs where
  s0 : Word64
  s1 : Word64
deriving DecidableEq, Repr

/-- The registers `XO128.s[0]` and `XO128.s[1]` (R12). -/
structure Xo128Regs where
  s0 : Word64
  s1 : Word64
deriving DecidableEq, Repr

/-- The register file `XS1024.s[0..15]` (R13) and the 4-bit cursor `XS1024.p` (R14). -/
structure Xs1024Regs where
  s : Vector Word64 16
  p : BitVec 4
deriving DecidableEq, Repr

/-- The constructed flags `VALID[0..3]` (R15). -/
structure ValidFlags where
  sm64 : Bool
  xs128 : Bool
  xo128 : Bool
  xs1024 : Bool
deriving DecidableEq, Repr

/-- The status of a response (R46). -/
inductive Status where
  | ok
  | errIllegal
  | errLength
  | errUninit
deriving DecidableEq, Repr

/-- A response is a pair `(ST, D)`: the status and a list of data words, first word first (R45). -/
structure Response where
  status : Status
  data : List Word64
deriving DecidableEq, Repr

/-- What the host can do next (log entries 1 and 7): present a command (R40), assert the reset input between commands (R140),
or assert it while the command it presented is in progress (R141). -/
inductive Input where
  | command (c : Command)
  | reset
  | resetDuring (c : Command)
deriving DecidableEq, Repr

/-- The state of the machine. `sm`, `xs128`, `xo128`, `xs1024` and `valid` are all the state the block has (10_state.md section
1: "No other state exists"). The other four fields are the model's, not the block's: what the host will present, oldest first
(log entry 1); the payload of the command being performed, empty between commands (R44, log entry 4); the responses returned
so far, oldest first (R45, log entry 3); and how many free values have been used (log entry 6). -/
structure State where
  sm : Sm64Regs
  xs128 : Xs128Regs
  xo128 : Xo128Regs
  xs1024 : Xs1024Regs
  valid : ValidFlags
  input : List Input
  payload : List Word64
  responses : List Response
  free : Nat
deriving DecidableEq, Repr

/-- The ways the machine can stop with a fault: none. An error of the block is the status of a response and the block goes on
(R120, R124, R126), and nothing else can go wrong (R128). Nobody raises a fault, which is safe: log entry 16. -/
inductive Fault where
deriving DecidableEq, Repr

/-- The ways the model can refuse. -/
inductive Refusal where
  /-- Raised by an arm of `exec` whose instruction has no meaning yet; no arm is left in that case. Safe: the model stops. -/
  | notModelled (mnemonic : String)
deriving DecidableEq, Repr

/-- The state right after reset (R22): all `VALID` flags 0, the cursor 0, the 21 data words unspecified, which here are the
first 21 free values (log entry 5); nothing presented, nothing answered. -/
def State.reset : State where
  sm := ⟨Config.freeWord 0⟩
  xs128 := ⟨Config.freeWord 1, Config.freeWord 2⟩
  xo128 := ⟨Config.freeWord 3, Config.freeWord 4⟩
  xs1024 := ⟨Vector.ofFn fun i : Fin 16 => Config.freeWord (5 + i.val), 0⟩
  valid := ⟨false, false, false, false⟩
  input := []
  payload := []
  responses := []
  free := 21

end Sys2Proof.Machine
end

