-- ==== Sys2Proof/Machine/Flags.lean ====
section
/-! DEFINITION. The only flags of the block, the constructed flags `VALID[u]` (rules R15, R17): reading one and setting one. No
operation clears a flag; reset alone does. -/

namespace Sys2Proof.Machine

open Sys2Proof

/-- `VALID[u]` (R15). -/
def ValidFlags.get (v : ValidFlags) : UnitId → Bool
  | .sm64 => v.sm64
  | .xs128 => v.xs128
  | .xo128 => v.xo128
  | .xs1024 => v.xs1024

/-- `VALID[u] <- 1`. -/
def ValidFlags.mark (v : ValidFlags) : UnitId → ValidFlags
  | .sm64 => { v with sm64 := true }
  | .xs128 => { v with xs128 := true }
  | .xo128 => { v with xo128 := true }
  | .xs1024 => { v with xs1024 := true }

end Sys2Proof.Machine
end

