-- ==== Sys2Proof/Machine/Ops.lean ====
section
/-! DEFINITION. The operations every instruction shares: the arithmetic primitives of rule R7, ending a command with a response
or an error (rules R8, R45, R124), the constructed check (R123), construction from a list of words (R100 phase 2), read-out
(R23), the accumulate-then-advance loop of `JUMP` (R74), and reset (R22, R140). -/

namespace Sys2Proof.Machine

open Sys2Proof

/-! ## Arithmetic (R7): unsigned 64-bit, modulo 2^64

The exact sum or product of the two numbers, then its low 64 bits. The second operand, which the rules make the constant one,
stands first inside, where the kernel does not count it down when it compares two symbolic words. -/

/-- `add64(a, b) = (a + b) mod 2^64`. -/
def add64 (a b : Word64) : Word64 := BitVec.ofNat 64 (b.toNat + a.toNat)

/-- `mul64(a, b)`: the low 64 bits of the 128-bit product. -/
def mul64 (a b : Word64) : Word64 := BitVec.ofNat 64 (b.toNat * a.toNat)

/-- `shl64(a, k)`: zeros enter at bit 0, the top `k` bits are lost. -/
def shl64 (a : Word64) (k : Nat) : Word64 := a <<< k

/-- `shr64(a, k)`: a logical right shift, zeros enter at bit 63 (D26). -/
def shr64 (a : Word64) (k : Nat) : Word64 := a >>> k

/-- `rotl64(a, k) = shl64(a, k) | shr64(a, 64 - k)`. -/
def rotl64 (a : Word64) (k : Nat) : Word64 := shl64 a k ||| shr64 a (64 - k)

/-! ## Ending a command -/

/-- The 4-bit code of a status (R46). Codes `0x4` to `0xF` are never produced. -/
def Status.code : Status → BitVec 4
  | .ok => 0x0
  | .errIllegal => 0x1
  | .errLength => 0x2
  | .errUninit => 0x3

/-- The state once the command has been answered: one response more, in command order (R36, R45), and no payload left. -/
def State.answer (s : State) (st : Status) (data : List Word64) : State :=
  { s with payload := [], responses := s.responses ++ [⟨st, data⟩] }

/-- `respond(ST, D)` (R8): the command ends; the block goes on. -/
def respond (st : Status) (data : List Word64) (s : State) : Host.Outcome State Fault Refusal :=
  .next (s.answer st data)

/-- `raise ERR_X` (R8, R124): the command ends at once with no data and no change to any state of the block. This is all there
is to an exception here: nothing is saved, no mode changes, no control is transferred (R126), and nothing is returned from (R127). -/
def raise (st : Status) (s : State) : Host.Outcome State Fault Refusal :=
  respond st [] s

/-- Step 3 of R47: a command that needs the state of unit `u` is refused with `ERR_UNINIT` while `VALID[u] = 0` (R123). -/
def whenConstructed (u : UnitId) (s : State) (body : Host.Outcome State Fault Refusal) :
    Host.Outcome State Fault Refusal :=
  if s.valid.get u then body else raise .errUninit s

/-! ## A unit's state as a list of words (R23) -/

/-- The state of unit `u` as read-out gives it: word `i` is `s[i]`; for `XS1024` the cursor comes last, widened to 64 bits,
and the words are not rotated by it (R23, R92). -/
def readOut (u : UnitId) (s : State) : List Word64 :=
  match u with
  | .sm64 => [s.sm.x]
  | .xs128 => [s.xs128.s0, s.xs128.s1]
  | .xo128 => [s.xo128.s0, s.xo128.s1]
  | .xs1024 => s.xs1024.s.toList ++ [s.xs1024.p.setWidth 64]

/-- Construct unit `u` from a list of exactly `STATE_SIZE(u)` words: every state word is written, the cursor of `XS1024`
becomes 0, and `VALID[u] <- 1` (R61, R71, R81, R91, R100 phase 2). A list of another length writes nothing; no instruction
gives one (log entry 15). -/
def construct (u : UnitId) (words : List Word64) (s : State) : State :=
  match u with
  | .sm64 =>
    match words with
    | [w0] => { s with sm := ⟨w0⟩, valid := s.valid.mark .sm64 }
    | _ => s
  | .xs128 =>
    match words with
    | [w0, w1] => { s with xs128 := ⟨w0, w1⟩, valid := s.valid.mark .xs128 }
    | _ => s
  | .xo128 =>
    match words with
    | [w0, w1] => { s with xo128 := ⟨w0, w1⟩, valid := s.valid.mark .xo128 }
    | _ => s
  | .xs1024 =>
    if h : words.length = 16 then
      { s with xs1024 := ⟨⟨words.toArray, h⟩, 0⟩, valid := s.valid.mark .xs1024 }
    else s

/-! ## The loop of `JUMP` (R74, R84, R94) -/

/-- The bits of a jump polynomial in the order the loop takes them: word 0 first, in each word bit 0 first (D24). -/
def polynomialBits (words : List Word64) : List Bool :=
  words.flatMap fun w => (List.range 64).map fun b => w.getLsbD b

/-- One pass over the bits: where the bit is 1, XOR the current state, seen through `view`, into the accumulator; then, bit set
or not, advance once. The result is the accumulator and the state after the last advance (R74 reading notes 1 to 4). -/
def jumpLoop {σ α : Type} (xorInto : α → α → α) (view : σ → α) (advance : σ → σ) :
    List Bool → α → σ → α × σ
  | [], acc, u => (acc, u)
  | bit :: bits, acc, u =>
    jumpLoop xorInto view advance bits (if bit then xorInto acc (view u) else acc) (advance u)

/-! ## Reset and the command port -/

/-- Releasing the reset input (R140, R22): `VALID[0..3] = 0`, `p = 0`, and the 21 data words unspecified, which take the next
21 free values. What the host has yet to present, and the responses it has, are not the block's (log entry 7). -/
def resetBlock (s : State) : State :=
  { s with
    sm := ⟨Config.freeWord s.free⟩
    xs128 := ⟨Config.freeWord (s.free + 1), Config.freeWord (s.free + 2)⟩
    xo128 := ⟨Config.freeWord (s.free + 3), Config.freeWord (s.free + 4)⟩
    xs1024 := ⟨Vector.ofFn fun i : Fin 16 => Config.freeWord (s.free + 5 + i.val), 0⟩
    valid := ⟨false, false, false, false⟩
    payload := []
    free := s.free + 21 }

/-- The oldest input leaves the queue. -/
def dropInput (s : State) : State := { s with input := s.input.tail }

/-- The block accepts a command: it leaves the queue and its payload stands beside it until the response (R44). -/
def acceptCommand (c : Command) (s : State) : State :=
  { dropInput s with payload := c.payload }

end Sys2Proof.Machine
end

