-- ==== Sys2Proof/Machine/Operands.lean ====
section
/-! DEFINITION. The operands of a command beside its word: the payload an instruction takes (rules R41, R44), the check of its
length (step 2 of rule R47, R122), the unit whose state it needs (step 3 of R47, R123), and the length of its answer (R41, R45). -/

namespace Sys2Proof.Machine

open Sys2Proof

/-- How many payload words an instruction takes: `STATE_SIZE(T)` for `LDS`, none for every other (R41, R44). -/
def payloadWords : Instr → Nat
  | .ldsSm64 => UnitId.stateSize .sm64
  | .ldsXs128 => UnitId.stateSize .xs128
  | .ldsXo128 => UnitId.stateSize .xo128
  | .ldsXs1024 => UnitId.stateSize .xs1024
  | .nextSm64 => 0
  | .nextXs128 => 0
  | .nextXo128 => 0
  | .nextXs1024 => 0
  | .jumpXs128 => 0
  | .jumpXo128 => 0
  | .jumpXs1024 => 0
  | .rdsSm64 => 0
  | .rdsXs128 => 0
  | .rdsXo128 => 0
  | .rdsXs1024 => 0
  | .seedSm64 _ => 0
  | .seedXs128 _ => 0
  | .seedXo128 _ => 0
  | .seedXs1024 _ => 0
  | .genSm64 _ => 0
  | .genXs128 _ => 0
  | .genXo128 _ => 0
  | .genXs1024 _ => 0
  | .sizeSm64 => 0
  | .sizeXs128 => 0
  | .sizeXo128 => 0
  | .sizeXs1024 => 0

/-- The unit whose state an instruction reads and which must be constructed: `T` for `NEXT`, `JUMP`, `RDS`, `GEN`; `S` for
`SEED`; none for `SIZE` and `LDS` (R47 step 3, R123). -/
def neededUnit : Instr → Option UnitId
  | .nextSm64 => some .sm64
  | .nextXs128 => some .xs128
  | .nextXo128 => some .xo128
  | .nextXs1024 => some .xs1024
  | .jumpXs128 => some .xs128
  | .jumpXo128 => some .xo128
  | .jumpXs1024 => some .xs1024
  | .ldsSm64 => none
  | .ldsXs128 => none
  | .ldsXo128 => none
  | .ldsXs1024 => none
  | .rdsSm64 => some .sm64
  | .rdsXs128 => some .xs128
  | .rdsXo128 => some .xo128
  | .rdsXs1024 => some .xs1024
  | .seedSm64 source => some source
  | .seedXs128 source => some source
  | .seedXo128 source => some source
  | .seedXs1024 source => some source
  | .genSm64 _ => some .sm64
  | .genXs128 _ => some .xs128
  | .genXo128 _ => some .xo128
  | .genXs1024 _ => some .xs1024
  | .sizeSm64 => none
  | .sizeXs128 => none
  | .sizeXo128 => none
  | .sizeXs1024 => none

/-- How many data words the response has when its status is `OK` (R41, R45). -/
def responseWords : Instr → Nat
  | .nextSm64 => 1
  | .nextXs128 => 1
  | .nextXo128 => 1
  | .nextXs1024 => 1
  | .jumpXs128 => 0
  | .jumpXo128 => 0
  | .jumpXs1024 => 0
  | .ldsSm64 => 0
  | .ldsXs128 => 0
  | .ldsXo128 => 0
  | .ldsXs1024 => 0
  | .rdsSm64 => 1
  | .rdsXs128 => 2
  | .rdsXo128 => 2
  | .rdsXs1024 => 17
  | .seedSm64 _ => 0
  | .seedXs128 _ => 0
  | .seedXo128 _ => 0
  | .seedXs1024 _ => 0
  | .genSm64 n => n
  | .genXs128 n => n
  | .genXo128 n => n
  | .genXs1024 n => n
  | .sizeSm64 => 1
  | .sizeXs128 => 1
  | .sizeXo128 => 1
  | .sizeXs1024 => 1

/-- Step 2 of R47: a payload of any other length than the instruction takes gives `ERR_LENGTH` (R122). -/
def whenPayload (count : Nat) (s : State) (body : Host.Outcome State Fault Refusal) :
    Host.Outcome State Fault Refusal :=
  if s.payload.length = count then body else raise .errLength s

/-- `SIZE u` (R60, R70, R80, R90): the answer is the unit's word count, constructed or not; nothing is read or written. -/
def answerSize (u : UnitId) (s : State) : Host.Outcome State Fault Refusal :=
  whenPayload 0 s (respond .ok [BitVec.ofNat 64 u.stateSize] s)

/-- `LDS u` (R61, R71, R81, R91): construct the unit from the payload. The unit need not be constructed. -/
def loadUnit (u : UnitId) (s : State) : Host.Outcome State Fault Refusal :=
  whenPayload u.stateSize s (respond .ok [] (construct u s.payload s))

/-- `RDS u` (R62, R72, R82, R92): the state words, nothing written. -/
def readUnit (u : UnitId) (s : State) : Host.Outcome State Fault Refusal :=
  whenPayload 0 s (whenConstructed u s (respond .ok (readOut u s) s))

end Sys2Proof.Machine
end

