-- ==== Sys2Proof/Machine/SplitMix64.lean ====
section
/-! DEFINITION. Unit SM64 (40_splitmix64.md): its `Next` and the instructions `SIZE`, `LDS`, `RDS` and `NEXT` (rules R60 to R63).
There is no `JUMP` of this unit (R64). -/

namespace Sys2Proof.Machine

open Sys2Proof

/-- `GAMMA` (R63). -/
def gamma : Word64 := 0x9E3779B97F4A7C15

/-- `MIX1` (R63). -/
def mix1 : Word64 := 0xBF58476D1CE4E5B9

/-- `MIX2` (R63). -/
def mix2 : Word64 := 0x94D049BB133111EB

/-- The mixer, the last four lines of R63: two rounds of xor-right-shift and multiply (30 with `MIX1`, 27 with `MIX2`), then one
xor-right-shift by 31. There is no rotate in it (C1). -/
def mixSm64 (z0 : Word64) : Word64 :=
  let z1 := mul64 (z0 ^^^ shr64 z0 30) mix1
  let z2 := mul64 (z1 ^^^ shr64 z1 27) mix2
  z2 ^^^ shr64 z2 31

/-- `Next` of SM64 (R63): the counter is stepped first, and the output is the mixer of the new counter (D29). -/
def nextSm64 (u : Sm64Regs) : Word64 × Sm64Regs :=
  let x := add64 u.x gamma
  (mixSm64 x, ⟨x⟩)

/-- `SIZE.SM64` (R60). -/
def execSizeSm64 (s : State) : Host.Outcome State Fault Refusal := answerSize .sm64 s

/-- `LDS.SM64` (R61). -/
def execLdsSm64 (s : State) : Host.Outcome State Fault Refusal := loadUnit .sm64 s

/-- `RDS.SM64` (R62). -/
def execRdsSm64 (s : State) : Host.Outcome State Fault Refusal := readUnit .sm64 s

/-- `NEXT.SM64` (R63). -/
def execNextSm64 (s : State) : Host.Outcome State Fault Refusal :=
  whenPayload 0 s (whenConstructed .sm64 s
    (respond .ok [(nextSm64 s.sm).1] { s with sm := (nextSm64 s.sm).2 }))

end Sys2Proof.Machine
end

