-- ==== Sys2Proof/Machine/Xoroshiro128.lean ====
section
/-! DEFINITION. Unit XO128 (42_xoroshiro128.md): its `Next`, its jump, and the instructions `SIZE`, `LDS`, `RDS`, `NEXT` and `JUMP`
(rules R80 to R84). -/

namespace Sys2Proof.Machine

open Sys2Proof

/-- `Next` of XO128 (R83). The result is the sum of the old words; both writes are computed from the old state. -/
def nextXo128 (u : Xo128Regs) : Word64 × Xo128Regs :=
  let a := u.s0
  let b := u.s1
  let r := add64 a b
  let c := b ^^^ a
  (r, ⟨rotl64 a 55 ^^^ c ^^^ shl64 c 14, rotl64 c 36⟩)

/-- The state update of `Next`, its result discarded. -/
def advanceXo128 (u : Xo128Regs) : Xo128Regs := (nextXo128 u).2

/-- `JUMP_XO128[0..1]` (R84). -/
def jumpWordsXo128 : List Word64 := [0xBEAC0467EBA5FACB, 0xD86B048B86AA9922]

/-- XOR of both words. -/
def xorXo128 (a b : Xo128Regs) : Xo128Regs := ⟨a.s0 ^^^ b.s0, a.s1 ^^^ b.s1⟩

/-- The jump of XO128 (R84), by the pattern of R74. -/
def jumpXo128 (u : Xo128Regs) : Xo128Regs :=
  (jumpLoop xorXo128 id advanceXo128 (polynomialBits jumpWordsXo128) ⟨0, 0⟩ u).1

/-- `SIZE.XO128` (R80). -/
def execSizeXo128 (s : State) : Host.Outcome State Fault Refusal := answerSize .xo128 s

/-- `LDS.XO128` (R81). -/
def execLdsXo128 (s : State) : Host.Outcome State Fault Refusal := loadUnit .xo128 s

/-- `RDS.XO128` (R82). -/
def execRdsXo128 (s : State) : Host.Outcome State Fault Refusal := readUnit .xo128 s

/-- `NEXT.XO128` (R83). -/
def execNextXo128 (s : State) : Host.Outcome State Fault Refusal :=
  whenPayload 0 s (whenConstructed .xo128 s
    (respond .ok [(nextXo128 s.xo128).1] { s with xo128 := (nextXo128 s.xo128).2 }))

/-- `JUMP.XO128` (R84). -/
def execJumpXo128 (s : State) : Host.Outcome State Fault Refusal :=
  whenPayload 0 s (whenConstructed .xo128 s
    (respond .ok [] { s with xo128 := jumpXo128 s.xo128 }))

end Sys2Proof.Machine
end

