-- ==== Sys2Proof/Machine/Xorshift1024.lean ====
section
/-! DEFINITION. Unit XS1024 (43_xorshift1024.md): its `Next`, its jump, and the instructions `SIZE`, `LDS`, `RDS`, `NEXT` and
`JUMP` (rules R90 to R95). Index arithmetic is modulo 16, which is what a 4-bit index does (R14). -/

namespace Sys2Proof.Machine

open Sys2Proof

/-- `MUL1024` (R93), decimal as the source gives it. -/
def mul1024 : Word64 := 1181783497276652981

/-- Word `i` of a 16-word array. -/
def wordAt (v : Vector Word64 16) (i : BitVec 4) : Word64 := v[i.toNat]'i.isLt

/-- The array with word `i` replaced. -/
def putWord (v : Vector Word64 16) (i : BitVec 4) (w : Word64) : Vector Word64 16 := v.set i.toNat w i.isLt

/-- `Next` of XS1024 (R93): the cursor moves first; the word at the new cursor is rewritten from itself and the word at the old
cursor; the result is the new word times `MUL1024`. -/
def nextXs1024 (u : Xs1024Regs) : Word64 × Xs1024Regs :=
  let x := wordAt u.s u.p
  let p := u.p + 1
  let y := wordAt u.s p
  let y' := y ^^^ shl64 y 31
  let w := y' ^^^ x ^^^ shr64 y' 11 ^^^ shr64 x 30
  (mul64 w mul1024, ⟨putWord u.s p w, p⟩)

/-- The state update of `Next`, its result discarded. -/
def advanceXs1024 (u : Xs1024Regs) : Xs1024Regs := (nextXs1024 u).2

/-- The rotated view `v[j] = s[(j + p) mod 16]` (R96, glossary of 00_scope.md). -/
def rotatedView (u : Xs1024Regs) : Vector Word64 16 :=
  Vector.ofFn fun j : Fin 16 => wordAt u.s (BitVec.ofNat 4 j.val + u.p)

/-- The array whose view from cursor `p` is `t`: `s[(j + p) mod 16] <- t[j]` for every `j` (R94, write-back). -/
def unrotate (t : Vector Word64 16) (p : BitVec 4) : Vector Word64 16 :=
  Vector.ofFn fun k : Fin 16 => wordAt t (BitVec.ofNat 4 k.val - p)

/-- XOR of two arrays, word by word. -/
def xorWords (a b : Vector Word64 16) : Vector Word64 16 := Vector.ofFn fun j : Fin 16 => a[j] ^^^ b[j]

/-- The jump of XS1024 (R94) with the polynomial of `Config.jump1024` (R95): the accumulator collects rotated views, each with
the cursor of the moment, and is written back at the offsets of the cursor after the loop. -/
def jumpXs1024 (u : Xs1024Regs) : Xs1024Regs :=
  let r := jumpLoop xorWords rotatedView advanceXs1024 (polynomialBits Config.jump1024) (Vector.replicate 16 0) u
  ⟨unrotate r.1 r.2.p, r.2.p⟩

/-- `SIZE.XS1024` (R90). -/
def execSizeXs1024 (s : State) : Host.Outcome State Fault Refusal := answerSize .xs1024 s

/-- `LDS.XS1024` (R91). -/
def execLdsXs1024 (s : State) : Host.Outcome State Fault Refusal := loadUnit .xs1024 s

/-- `RDS.XS1024` (R92). -/
def execRdsXs1024 (s : State) : Host.Outcome State Fault Refusal := readUnit .xs1024 s

/-- `NEXT.XS1024` (R93). -/
def execNextXs1024 (s : State) : Host.Outcome State Fault Refusal :=
  whenPayload 0 s (whenConstructed .xs1024 s
    (respond .ok [(nextXs1024 s.xs1024).1] { s with xs1024 := (nextXs1024 s.xs1024).2 }))

/-- `JUMP.XS1024` (R94). -/
def execJumpXs1024 (s : State) : Host.Outcome State Fault Refusal :=
  whenPayload 0 s (whenConstructed .xs1024 s
    (respond .ok [] { s with xs1024 := jumpXs1024 s.xs1024 }))

end Sys2Proof.Machine
end

