-- ==== Sys2Proof/Machine/Xorshift128.lean ====
section
/-! DEFINITION. Unit XS128 (41_xorshift128.md): its `Next`, its jump, and the instructions `SIZE`, `LDS`, `RDS`, `NEXT` and `JUMP`
(rules R70 to R74). -/

namespace Sys2Proof.Machine

open Sys2Proof

/-- `Next` of XS128 (R73). The result is the sum of the old words; the shift by 18 acts on the word after the left-shift XOR. -/
def nextXs128 (u : Xs128Regs) : Word64 × Xs128Regs :=
  let a := u.s0
  let b := u.s1
  let r := add64 b a
  let a' := a ^^^ shl64 a 23
  (r, ⟨b, a' ^^^ b ^^^ shr64 a' 18 ^^^ shr64 b 5⟩)

/-- The state update of `Next`, its result discarded. -/
def advanceXs128 (u : Xs128Regs) : Xs128Regs := (nextXs128 u).2

/-- `JUMP_XS128[0..1]` (R74). -/
def jumpWordsXs128 : List Word64 := [0x8A5CD789635D2DFF, 0x121FD2155C472F96]

/-- XOR of both words. -/
def xorXs128 (a b : Xs128Regs) : Xs128Regs := ⟨a.s0 ^^^ b.s0, a.s1 ^^^ b.s1⟩

/-- The jump of XS128 (R74): the state becomes the accumulator; the state after the 128th advance is thrown away. -/
def jumpXs128 (u : Xs128Regs) : Xs128Regs :=
  (jumpLoop xorXs128 id advanceXs128 (polynomialBits jumpWordsXs128) ⟨0, 0⟩ u).1

/-- `SIZE.XS128` (R70). -/
def execSizeXs128 (s : State) : Host.Outcome State Fault Refusal := answerSize .xs128 s

/-- `LDS.XS128` (R71). -/
def execLdsXs128 (s : State) : Host.Outcome State Fault Refusal := loadUnit .xs128 s

/-- `RDS.XS128` (R72). -/
def execRdsXs128 (s : State) : Host.Outcome State Fault Refusal := readUnit .xs128 s

/-- `NEXT.XS128` (R73). -/
def execNextXs128 (s : State) : Host.Outcome State Fault Refusal :=
  whenPayload 0 s (whenConstructed .xs128 s
    (respond .ok [(nextXs128 s.xs128).1] { s with xs128 := (nextXs128 s.xs128).2 }))

/-- `JUMP.XS128` (R74): nothing is returned to the host (D27). -/
def execJumpXs128 (s : State) : Host.Outcome State Fault Refusal :=
  whenPayload 0 s (whenConstructed .xs128 s
    (respond .ok [] { s with xs128 := jumpXs128 s.xs128 }))

end Sys2Proof.Machine
end

