-- ==== Sys2Proof/Machine/Draw.lean ====
section
/-! DEFINITION. `Next_u()` inside another rule (rule R8) and a run of outputs of one unit, which the seeding adapter (R100 phase
1) and the bulk generator (R110) share. -/

namespace Sys2Proof.Machine

open Sys2Proof

/-- `Next_u()` (R8): unit `u`'s state update and its result, no response. Any unit may be the one (R100, R110). -/
def nextUnit (u : UnitId) (s : State) : Word64 × State :=
  match u with
  | .sm64 => ((nextSm64 s.sm).1, { s with sm := (nextSm64 s.sm).2 })
  | .xs128 => ((nextXs128 s.xs128).1, { s with xs128 := (nextXs128 s.xs128).2 })
  | .xo128 => ((nextXo128 s.xo128).1, { s with xo128 := (nextXo128 s.xo128).2 })
  | .xs1024 => ((nextXs1024 s.xs1024).1, { s with xs1024 := (nextXs1024 s.xs1024).2 })

/-- `n` consecutive outputs of unit `u`, first drawn first, and the state after them (R100 phase 1, R110). -/
def draw (u : UnitId) : Nat → State → List Word64 × State
  | 0, s => ([], s)
  | n + 1, s =>
    let r := nextUnit u s
    let d := draw u n r.2
    (r.1 :: d.1, d.2)

end Sys2Proof.Machine
end

