-- ==== Sys2Proof/Machine/Bulk.lean ====
section
/-! DEFINITION. Bulk generation (45_bulk_generation.md): the four `GEN` instructions (rules R110 to R114). -/

namespace Sys2Proof.Machine

open Sys2Proof

/-- `GEN u, n` (R110): `n` outputs in the order produced; the unit itself is left `n` steps further on (D16, C4). The
constructed check comes before the count is looked at. -/
def genUnit (u : UnitId) (count : Nat) (s : State) : Host.Outcome State Fault Refusal :=
  whenPayload 0 s (whenConstructed u s (respond .ok (draw u count s).1 (draw u count s).2))

/-- `GEN.SM64` (R111). -/
def execGenSm64 (count : Nat) (s : State) : Host.Outcome State Fault Refusal := genUnit .sm64 count s

/-- `GEN.XS128` (R112). -/
def execGenXs128 (count : Nat) (s : State) : Host.Outcome State Fault Refusal := genUnit .xs128 count s

/-- `GEN.XO128` (R113). -/
def execGenXo128 (count : Nat) (s : State) : Host.Outcome State Fault Refusal := genUnit .xo128 count s

/-- `GEN.XS1024` (R114). -/
def execGenXs1024 (count : Nat) (s : State) : Host.Outcome State Fault Refusal := genUnit .xs1024 count s

end Sys2Proof.Machine
end

