-- ==== Sys2Proof/Machine/Seeding.lean ====
section
/-! DEFINITION. The seeding adapter (44_seeding.md): the four `SEED` instructions (rules R100 to R104, R106). -/

namespace Sys2Proof.Machine

open Sys2Proof

/-- `SEED t, s` (R100): draw `STATE_SIZE(t)` outputs of the source, then construct the target from them exactly as `LDS t`
would. The two phases are not merged, so source and target may be the same unit (R106). Only the source must be constructed. -/
def seedUnit (target source : UnitId) (s : State) : Host.Outcome State Fault Refusal :=
  whenPayload 0 s (whenConstructed source s
    (respond .ok [] (construct target (draw source target.stateSize s).1 (draw source target.stateSize s).2)))

/-- `SEED.SM64` (R101). -/
def execSeedSm64 (source : UnitId) (s : State) : Host.Outcome State Fault Refusal := seedUnit .sm64 source s

/-- `SEED.XS128` (R102). -/
def execSeedXs128 (source : UnitId) (s : State) : Host.Outcome State Fault Refusal := seedUnit .xs128 source s

/-- `SEED.XO128` (R103). -/
def execSeedXo128 (source : UnitId) (s : State) : Host.Outcome State Fault Refusal := seedUnit .xo128 source s

/-- `SEED.XS1024` (R104). -/
def execSeedXs1024 (source : UnitId) (s : State) : Host.Outcome State Fault Refusal := seedUnit .xs1024 source s

end Sys2Proof.Machine
end

