-- ==== Sys2Proof/Machine/Dispatch.lean ====
section
/-! DEFINITION. One arm per instruction of the opcode table. -/

namespace Sys2Proof.Machine

open Sys2Proof

-- Each arm is step 4 of rule R47, after the instruction's own checks of steps 2 and 3.
def exec (i : Instr) (s : State) : Host.Outcome State Fault Refusal :=
  match i with
  | .nextSm64 => Sys2Proof.Machine.execNextSm64 s
  | .nextXs128 => Sys2Proof.Machine.execNextXs128 s
  | .nextXo128 => Sys2Proof.Machine.execNextXo128 s
  | .nextXs1024 => Sys2Proof.Machine.execNextXs1024 s
  | .jumpXs128 => Sys2Proof.Machine.execJumpXs128 s
  | .jumpXo128 => Sys2Proof.Machine.execJumpXo128 s
  | .jumpXs1024 => Sys2Proof.Machine.execJumpXs1024 s
  | .ldsSm64 => Sys2Proof.Machine.execLdsSm64 s
  | .ldsXs128 => Sys2Proof.Machine.execLdsXs128 s
  | .ldsXo128 => Sys2Proof.Machine.execLdsXo128 s
  | .ldsXs1024 => Sys2Proof.Machine.execLdsXs1024 s
  | .rdsSm64 => Sys2Proof.Machine.execRdsSm64 s
  | .rdsXs128 => Sys2Proof.Machine.execRdsXs128 s
  | .rdsXo128 => Sys2Proof.Machine.execRdsXo128 s
  | .rdsXs1024 => Sys2Proof.Machine.execRdsXs1024 s
  | .seedSm64 source => Sys2Proof.Machine.execSeedSm64 source s
  | .seedXs128 source => Sys2Proof.Machine.execSeedXs128 source s
  | .seedXo128 source => Sys2Proof.Machine.execSeedXo128 source s
  | .seedXs1024 source => Sys2Proof.Machine.execSeedXs1024 source s
  | .genSm64 count => Sys2Proof.Machine.execGenSm64 count s
  | .genXs128 count => Sys2Proof.Machine.execGenXs128 count s
  | .genXo128 count => Sys2Proof.Machine.execGenXo128 count s
  | .genXs1024 count => Sys2Proof.Machine.execGenXs1024 count s
  | .sizeSm64 => Sys2Proof.Machine.execSizeSm64 s
  | .sizeXs128 => Sys2Proof.Machine.execSizeXs128 s
  | .sizeXo128 => Sys2Proof.Machine.execSizeXo128 s
  | .sizeXs1024 => Sys2Proof.Machine.execSizeXs1024 s

end Sys2Proof.Machine
end

