-- ==== Sys2Proof/Machine/Step.lean ====
section
/-! DEFINITION. One step: the block takes the oldest input of the host and performs it whole (rules R2, R9, R36, R47, R140, R141). -/

namespace Sys2Proof.Machine

open Sys2Proof

/-- A command, accepted and performed to its response: step 1 of R47, then the instruction's own meaning. An illegal word is
answered `ERR_ILLEGAL` and changes nothing, whatever its payload (R121, R125). -/
def performCommand (c : Command) (s : State) : Host.Outcome State Fault Refusal :=
  match decode c.word with
  | .ok i => exec i (acceptCommand c s)
  | .error _ => raise .errIllegal (acceptCommand c s)

/-- One step. With no input the block holds its state (R129, R136; log entry 2). A reset discards the state (R140); a reset
during a command abandons the command, which gets no response (R141). -/
def step (s : State) : Host.Outcome State Fault Refusal :=
  match s.input with
  | [] => .next s
  | .command c :: _ => performCommand c s
  | .reset :: _ => .next (resetBlock (dropInput s))
  | .resetDuring _ :: _ => .next (resetBlock (dropInput s))

/-- The payload the host gives with a table word: as many zero words as the instruction takes (log entry 9). -/
def tablePayload (word : CommandWord) : List Word64 :=
  match decode word with
  | .ok i => List.replicate (payloadWords i) 0
  | .error _ => []

/-- `s` with the command of a table word presented next (log entry 9). -/
def State.withFetchWord (s : State) (nbits w : Nat) : State :=
  let word := (tableWord nbits w).getD 0
  { s with input := .command ⟨word, tablePayload word⟩ :: s.input }

end Sys2Proof.Machine
end

