-- ==== Sys2Proof/Machine/Assembler.lean ====
section
/-! DEFINITION. The assembly lines of rule R51, the pseudo-instruction `SEEDSM` of rules R52 and R105, the commands they stand
for, and how they are written. -/

namespace Sys2Proof.Machine

open Sys2Proof

/-- One assembly line (R51, R52). -/
inductive AsmLine where
  | next (u : UnitId)
  | jump (u : UnitId)
  | lds (u : UnitId) (words : List Word64)
  | rds (u : UnitId)
  | seed (target source : UnitId)
  | gen (u : UnitId) (count : Nat)
  | size (u : UnitId)
  | seedsm (target : UnitId) (seed : Word64)
deriving DecidableEq, Repr

/-- The command of an instruction that takes no payload. -/
def bareCommand (i : Instr) : Command := ⟨encode i, []⟩

/-- `SEEDSM t, seed` is `LDS SM64, seed` then `SEED t, SM64` (R105). -/
def expandSeedsm (target : UnitId) (seed : Word64) : List Command :=
  [⟨encode .ldsSm64, [seed]⟩, bareCommand (seedOf target .sm64)]

/-- The commands of a line; none where the line has no encoding: `JUMP SM64` (R64) and a count above 65535 (R51). The number of
words after `LDS` is not checked here: the block checks it (R122). -/
def assemble : AsmLine → Option (List Command)
  | .next u => some [bareCommand (nextOf u)]
  | .jump u => (jumpOf u).map fun i => [bareCommand i]
  | .lds u words => some [⟨encode (ldsOf u), words⟩]
  | .rds u => some [bareCommand (rdsOf u)]
  | .seed t s => some [bareCommand (seedOf t s)]
  | .gen u n => if countFits n then some [bareCommand (genOf u n)] else none
  | .size u => some [bareCommand (sizeQueryOf u)]
  | .seedsm t value => some (expandSeedsm t value)

/-- The name of a unit (R42, R51). -/
def unitName : UnitId → String
  | .sm64 => "SM64"
  | .xs128 => "XS128"
  | .xo128 => "XO128"
  | .xs1024 => "XS1024"

/-- One hexadecimal digit, upper case. -/
def hexDigit (d : BitVec 4) : Char :=
  if d.toNat < 10 then Char.ofNat (48 + d.toNat) else Char.ofNat (55 + d.toNat)

/-- A 64-bit word as `0x` and 16 digits (R6, R51; log entry 17). -/
def hexWord (w : Word64) : String :=
  "0x" ++ String.ofList ((List.range 16).map fun i => hexDigit (w.extractLsb' (60 - 4 * i) 4))

/-- A line as it is written (R51). -/
def AsmLine.text : AsmLine → String
  | .next u => "NEXT " ++ unitName u
  | .jump u => "JUMP " ++ unitName u
  | .lds u words => "LDS " ++ String.intercalate ", " (unitName u :: words.map hexWord)
  | .rds u => "RDS " ++ unitName u
  | .seed t s => "SEED " ++ unitName t ++ ", " ++ unitName s
  | .gen u n => "GEN " ++ unitName u ++ ", " ++ toString n
  | .size u => "SIZE " ++ unitName u
  | .seedsm t value => "SEEDSM " ++ unitName t ++ ", " ++ hexWord value

/-- The name of a status (R46). -/
def Status.name : Status → String
  | .ok => "OK"
  | .errIllegal => "ERR_ILLEGAL"
  | .errLength => "ERR_LENGTH"
  | .errUninit => "ERR_UNINIT"

/-- A response as it is written: `-> ST [d0, d1, ...]` (R51). -/
def Response.text (r : Response) : String :=
  "-> " ++ r.status.name ++ " [" ++ String.intercalate ", " (r.data.map hexWord) ++ "]"

/-! ## Reading a line (R51; log entry 17) -/

/-- The value of a decimal or hexadecimal digit, either case. -/
def digitValue (c : Char) : Option Nat :=
  let n := c.toNat
  if 48 ≤ n ∧ n ≤ 57 then some (n - 48)
  else if 65 ≤ n ∧ n ≤ 70 then some (n - 55)
  else if 97 ≤ n ∧ n ≤ 102 then some (n - 87)
  else none

/-- Digits of one base, most significant first, after the value read so far. -/
def readDigits (base : Nat) : List Char → Nat → Option Nat
  | [], acc => some acc
  | c :: cs, acc =>
    match digitValue c with
    | some d => if d < base then readDigits base cs (acc * base + d) else none
    | none => none

/-- A number: decimal, or hexadecimal after `0x`. DESIGN CHOICE (log entry 17): no digit separator is read. R6 allows `_` in the
hexadecimal numbers of the spec, and R51 does not say whether a line may hold it; a number with one is not read. -/
def readNumber : List Char → Option Nat
  | [] => none
  | ['0', 'x'] => none
  | '0' :: 'x' :: cs => readDigits 16 cs 0
  | cs => readDigits 10 cs 0

/-- A number that fits the field. -/
def readBelow (bound : Nat) (cs : List Char) : Option Nat :=
  match readNumber cs with
  | some n => if n < bound then some n else none
  | none => none

/-- A 64-bit word. -/
def readWord (cs : List Char) : Option Word64 := (readBelow (2 ^ 64) cs).map (BitVec.ofNat 64)

/-- A unit: its name, or its number 0 to 3 (R51). DESIGN CHOICE (log entry 17): a number is one decimal digit. R51 does not say whether
it may be hexadecimal (`0x1`) or have a leading zero (`01`); a unit so written is not read. -/
def readUnitName (cs : List Char) : Option UnitId :=
  if cs = "SM64".toList ∨ cs = ['0'] then some .sm64
  else if cs = "XS128".toList ∨ cs = ['1'] then some .xs128
  else if cs = "XO128".toList ∨ cs = ['2'] then some .xo128
  else if cs = "XS1024".toList ∨ cs = ['3'] then some .xs1024
  else none

/-- Space or tab (DESIGN CHOICE, log entry 17). -/
def isBlank (c : Char) : Bool := c == ' ' || c == '\t'

/-- Blanks at both ends taken off. -/
def trimBlanks (cs : List Char) : List Char := ((cs.dropWhile isBlank).reverse.dropWhile isBlank).reverse

/-- The pieces between commas. -/
def splitCommas (cs : List Char) : List (List Char) :=
  cs.foldr (fun c pieces =>
    if c = ',' then [] :: pieces
    else match pieces with
      | [] => [[c]]
      | p :: ps => (c :: p) :: ps) [[]]

/-- Every element read, or none. -/
def readAll {α : Type} (f : List Char → Option α) : List (List Char) → Option (List α)
  | [] => some []
  | p :: ps =>
    match f p, readAll f ps with
    | some a, some as => some (a :: as)
    | _, _ => none

/-- The line an operation with its operands stands for. DESIGN CHOICE (log entry 17): the mnemonic is in upper case, and `LDS` may have
any number of words. -/
def readOperation (mnemonic : List Char) (operands : List (List Char)) : Option AsmLine :=
  match operands with
  | [u] =>
    if mnemonic = "NEXT".toList then (readUnitName u).map .next
    else if mnemonic = "JUMP".toList then (readUnitName u).map .jump
    else if mnemonic = "RDS".toList then (readUnitName u).map .rds
    else if mnemonic = "SIZE".toList then (readUnitName u).map .size
    else if mnemonic = "LDS".toList then (readUnitName u).map fun unit => .lds unit []
    else none
  | u :: ps =>
    if mnemonic = "LDS".toList then
      match readUnitName u, readAll readWord ps with
      | some unit, some ws => some (.lds unit ws)
      | _, _ => none
    else
      match ps with
      | [p] =>
        if mnemonic = "SEED".toList then
          match readUnitName u, readUnitName p with
          | some t, some source => some (.seed t source)
          | _, _ => none
        else if mnemonic = "GEN".toList then
          match readUnitName u, readBelow 65536 p with
          | some unit, some n => some (.gen unit n)
          | _, _ => none
        else if mnemonic = "SEEDSM".toList then
          match readUnitName u, readWord p with
          | some t, some value => some (.seedsm t value)
          | _, _ => none
        else none
      | _ => none
  | [] => none

/-- One command per line; `;` starts a comment; the mnemonic stands before the first blank, its operands between commas. -/
def readLine (line : String) : Option AsmLine :=
  let cs := trimBlanks (line.toList.takeWhile fun c => c != ';')
  readOperation (cs.takeWhile fun c => !isBlank c)
    ((splitCommas (cs.dropWhile fun c => !isBlank c)).map trimBlanks)

end Sys2Proof.Machine
end

