-- ==== Sys2Proof/Safety.lean ====
section
/-! DEFINITION. What the claims call a safe machine and a safe run: the shape of every response (rules R45, R124), quiescence
between commands (R157), and runs without an error status. -/

namespace Sys2Proof.Machine

open Sys2Proof

/-- A response as R45 describes it: an error carries no data, and no response carries more than 65535 words (the largest count
of `GEN`, R5). -/
def Response.wellShaped (r : Response) : Bool :=
  (r.status == .ok || r.data.isEmpty) && decide (r.data.length < 65536)

/-- The invariant of the machine between commands: nothing is in flight (R157) and every response given is well shaped. -/
def State.Quiescent (s : State) : Prop :=
  s.payload = [] ∧ ∀ r ∈ s.responses, r.wellShaped = true

/-- No command of the run so far ended in an error: the model's record that R126 allows, kept in the responses. -/
def State.ErrorFree (s : State) : Prop :=
  ∀ r ∈ s.responses, r.status = .ok

/-- A run of `k` steps completes, and no command in it ended in an error. -/
def SafeRun (k : Nat) (s : State) : Prop :=
  ∃ t, Host.Core.run Sys2Proof.core k s = .next t ∧ State.ErrorFree t

end Sys2Proof.Machine
end

