-- ==== Sys2Proof/Certificates/Slice0/Obligations.lean ====
section
/-! DEFINITION. The statements for the provers. The words they are made of stand first, in Sys2Proof.Claims: they are written from
the rules of spec/ and, where a rule gives a formula, without the model's own functions for it. -/

namespace Sys2Proof.Claims

open Sys2Proof Sys2Proof.Machine

/-! ## How a command ends -/

/-- The state `t` once the command is answered `(st, data)`: one response more, at the end (R36, R45). -/
def answered (t : State) (st : Status) (data : List Word64) : State :=
  { t with payload := [], responses := t.responses ++ [⟨st, data⟩] }

/-- Any word with the operation and unit of `word` and a bit of `reserved` set is answered `ERR_ILLEGAL`, whatever its payload,
and changes nothing. -/
def RefusesReserved (word reserved : CommandWord) : Prop :=
  ∀ w : CommandWord, w.extractLsb' 26 6 = word.extractLsb' 26 6 → w &&& reserved ≠ 0 →
    ∀ (p : List Word64) (rest : List Input) (s : State), s.input = .command ⟨w, p⟩ :: rest →
      step s = .next (answered { s with input := rest } .errIllegal [])

/-- What the rule of an instruction says that needs no constructed unit: its word, its reserved bits, `ERR_LENGTH` for any
payload of another length than `k`, and otherwise its effect and its answer. -/
def FollowsRuleAlways (i : Instr) (word reserved : CommandWord) (k : Nat) (effect : State → State)
    (data : State → List Word64) : Prop :=
  decode word = .ok i ∧ RefusesReserved word reserved ∧
  ∀ s : State,
    (s.payload.length ≠ k → exec i s = .next (answered s .errLength [])) ∧
    (s.payload.length = k → exec i s = .next (answered (effect s) .ok (data s)))

/-- The same for an instruction that reads a unit: with the right payload it is refused with `ERR_UNINIT` while that unit is not
constructed, and otherwise has its effect. -/
def FollowsRule (i : Instr) (word reserved : CommandWord) (constructed : State → Bool) (effect : State → State)
    (data : State → List Word64) : Prop :=
  decode word = .ok i ∧ RefusesReserved word reserved ∧
  ∀ s : State,
    (s.payload.length ≠ 0 → exec i s = .next (answered s .errLength [])) ∧
    (s.payload.length = 0 → constructed s = false → exec i s = .next (answered s .errUninit [])) ∧
    (s.payload.length = 0 → constructed s = true → exec i s = .next (answered (effect s) .ok (data s)))

/-! ## The arithmetic of the rules, on the bit-vector operations of Lean's library -/

/-- The last four lines of R63. -/
def mixer (z : Word64) : Word64 :=
  let z1 := (0xBF58476D1CE4E5B9 : Word64) * (z ^^^ (z >>> 30))
  let z2 := (0x94D049BB133111EB : Word64) * (z1 ^^^ (z1 >>> 27))
  z2 ^^^ (z2 >>> 31)

/-- The XOR of `f n` over the `n` below `count` whose bit is 1: what an accumulate-then-advance loop leaves in one word (R74). -/
def xorSelected (bit : Nat → Bool) (count : Nat) (f : Nat → Word64) : Word64 :=
  (List.range count).foldl (fun acc n => if bit n then acc ^^^ f n else acc) 0

/-- Bit `n` of a jump polynomial: bit `n mod 64` of its word `n div 64` (R74, D24). -/
def polynomialBit (words : List Word64) (n : Nat) : Bool := (words.getD (n / 64) 0).getLsbD (n % 64)

/-- Word `j` of the rotated view: `s[(j + p) mod 16]` (R96). -/
def viewWord (u : Xs1024Regs) (j : Nat) : Word64 := u.s[(j + u.p.toNat) % 16]'(Nat.mod_lt _ (by decide))

/-- The word a `Next` of XS1024 writes: with `X` the word at the cursor, `Y` the next one and `Y' = Y ^ (Y << 31)`, it is
`Y' ^ X ^ (Y' >> 11) ^ (X >> 30)` (R93). -/
def newWord (u : Xs1024Regs) : Word64 :=
  let x := viewWord u 0
  let y := viewWord u 1
  let y' := y ^^^ (y <<< 31)
  y' ^^^ x ^^^ (y' >>> 11) ^^^ (x >>> 30)

/-! ## Units -/

/-- The state after `n` `Next` steps of unit `u` (R8). -/
def afterNexts (u : UnitId) (n : Nat) (s : State) : State := (fun t => (nextUnit u t).2)^[n] s

/-- Output number `n` of unit `u`, counted from 0. -/
def output (u : UnitId) (n : Nat) (s : State) : Word64 := (nextUnit u (afterNexts u n s)).1

/-- Unit `u` holds the same words (and cursor) in both states. -/
def SameUnit (u : UnitId) (s t : State) : Prop :=
  match u with
  | .sm64 => s.sm = t.sm
  | .xs128 => s.xs128 = t.xs128
  | .xo128 => s.xo128 = t.xo128
  | .xs1024 => s.xs1024 = t.xs1024

/-- The units an instruction names (R21 item 3: "`SEED` names two"). -/
def named : Instr → List UnitId
  | .nextSm64 | .ldsSm64 | .rdsSm64 | .sizeSm64 => [.sm64]
  | .nextXs128 | .jumpXs128 | .ldsXs128 | .rdsXs128 | .sizeXs128 => [.xs128]
  | .nextXo128 | .jumpXo128 | .ldsXo128 | .rdsXo128 | .sizeXo128 => [.xo128]
  | .nextXs1024 | .jumpXs1024 | .ldsXs1024 | .rdsXs1024 | .sizeXs1024 => [.xs1024]
  | .seedSm64 source => [.sm64, source]
  | .seedXs128 source => [.xs128, source]
  | .seedXo128 source => [.xo128, source]
  | .seedXs1024 source => [.xs1024, source]
  | .genSm64 _ => [.sm64]
  | .genXs128 _ => [.xs128]
  | .genXo128 _ => [.xo128]
  | .genXs1024 _ => [.xs1024]

/-- Two states of the block that differ at most in the words of units not constructed in both, and in how many free values have
been used: the words R22 leaves unspecified. -/
def AgreeButUnspecified (s t : State) : Prop :=
  s.valid = t.valid ∧ s.input = t.input ∧ s.payload = t.payload ∧ s.responses = t.responses ∧
  ∀ u : UnitId, s.valid.get u = true → SameUnit u s t

/-! ## The decoding procedure of R47, on numbers -/

def wordsOfUnit : Nat → Nat
  | 0 => 1
  | 1 => 2
  | 2 => 2
  | _ => 16

def flagOfUnit (v : ValidFlags) : Nat → Bool
  | 0 => v.sm64
  | 1 => v.xs128
  | 2 => v.xo128
  | _ => v.xs1024

/-- The conditions of R121 on a word. -/
def IllegalWord (w : CommandWord) : Prop :=
  (w.extractLsb' 28 4).toNat = 0 ∨ 8 ≤ (w.extractLsb' 28 4).toNat ∨
  w.extractLsb' 16 8 ≠ 0 ∨
  (w.extractLsb' 24 2 ≠ 0 ∧ (w.extractLsb' 28 4).toNat ≠ 5) ∨
  (w.extractLsb' 0 16 ≠ 0 ∧ (w.extractLsb' 28 4).toNat ≠ 6) ∨
  ((w.extractLsb' 28 4).toNat = 2 ∧ (w.extractLsb' 26 2).toNat = 0)

/-- The status R47 gives a command, its lines in their order. -/
def statusOf (v : ValidFlags) (c : Command) : Status :=
  let op := (c.word.extractLsb' 28 4).toNat
  let t := (c.word.extractLsb' 26 2).toNat
  let s := (c.word.extractLsb' 24 2).toNat
  let z := (c.word.extractLsb' 16 8).toNat
  let n := (c.word.extractLsb' 0 16).toNat
  if op = 0 ∨ 8 ≤ op then .errIllegal
  else if z ≠ 0 then .errIllegal
  else if op ≠ 5 ∧ s ≠ 0 then .errIllegal
  else if op ≠ 6 ∧ n ≠ 0 then .errIllegal
  else if op = 2 ∧ t = 0 then .errIllegal
  else if op = 3 ∧ c.payload.length ≠ wordsOfUnit t then .errLength
  else if op ≠ 3 ∧ c.payload.length ≠ 0 then .errLength
  else if (op = 1 ∨ op = 2 ∨ op = 4 ∨ op = 6) ∧ flagOfUnit v t = false then .errUninit
  else if op = 5 ∧ flagOfUnit v s = false then .errUninit
  else .ok

/-! ## Sequences of instructions -/

/-- `n` times the same instruction. -/
def execTimes (i : Instr) : Nat → State → Host.Outcome State Fault Refusal
  | 0, s => .next s
  | n + 1, s =>
    match exec i s with
    | .next t => execTimes i n t
    | .fault r => .fault r
    | .refused r => .refused r

end Sys2Proof.Claims

open Sys2Proof Sys2Proof.Machine Sys2Proof.Claims

/-! ## Encoding -/

/-- One word of every operation, written out from R43, decodes to its instruction. -/
def Obligations.WordsWrittenOutDecode : Prop :=
  decode 0x18000000 = .ok .nextXo128 ∧ decode 0x2C000000 = .ok .jumpXs1024 ∧ decode 0x34000000 = .ok .ldsXs128 ∧
  decode 0x4C000000 = .ok .rdsXs1024 ∧ decode 0x5E000000 = .ok (.seedXs1024 .xo128) ∧
  decode 0x68000003 = .ok (.genXo128 3) ∧ decode 0x70000000 = .ok .sizeSm64

/-- Decoding the word of a well-formed instruction gives it back, every operand included (R40, R41, R47). -/
def Obligations.DecodeOfEncode : Prop :=
  ∀ i : Instr, i.wellFormed = true → decode (encode i) = .ok i

/-- Every legal word is the word of the instruction it decodes to, which is well formed: each word has one meaning (R43, R49). -/
def Obligations.EncodeOfDecode : Prop :=
  ∀ (w : CommandWord) (i : Instr), decode w = .ok i → i.wellFormed = true ∧ encode i = w

/-- R43: the instructions are selected by `(W & mask) = match`, the free fields are `S` for `SEED` and `N` for `GEN`, and any word
that matches none of the rows is illegal. -/
def Obligations.MatchAndMaskSelect : Prop :=
  (∀ (w : CommandWord) (i : Instr), decode w = .ok i → w &&& (tableRow i).2 = (tableRow i).1) ∧
  (∀ (w : CommandWord) (i : Instr), w &&& (tableRow i).2 = (tableRow i).1 →
    ∃ j, decode w = .ok j ∧ tableRow j = tableRow i) ∧
  (∀ (w : CommandWord) (t s : UnitId), decode w = .ok (seedOf t s) → w.extractLsb' 24 2 = unitNumber s) ∧
  (∀ (w : CommandWord) (u : UnitId) (n : Nat), decode w = .ok (genOf u n) → n = (w.extractLsb' 0 16).toNat) ∧
  (∀ w : CommandWord, (∀ i : Instr, w &&& (tableRow i).2 ≠ (tableRow i).1) → ∃ e, decode w = .error e)

/-- The number of legal command words (R48). -/
def Obligations.LegalWordCount : Prop :=
  Set.ncard {w : CommandWord | ∃ i, decode w = .ok i} = 262179

/-! ## Steps -/

/-- A step runs the instruction its oldest command decodes to, on the state with that command taken and its payload beside it. -/
def Obligations.StepRunsDecodedInstruction : Prop :=
  ∀ (s : State) (c : Command) (rest : List Input) (i : Instr),
    s.input = .command c :: rest → decode c.word = .ok i →
    step s = exec i { s with input := rest, payload := c.payload }

/-- With no input the block holds its state (R129, R136): the model's reading, log entry 2. -/
def Obligations.IdleBlockHoldsItsState : Prop :=
  ∀ s : State, s.input = [] → step s = .next s

/-- The reset input, between commands or during one (R140, R141): flags 0, cursor 0, no response. That the rest of the host's
input is still to come and the responses already given stay is the model's choice (log entry 7). What the data words become is
not stated. -/
def Obligations.ResetInputRule : Prop :=
  ∀ (s : State) (rest : List Input),
    (s.input = .reset :: rest ∨ ∃ c, s.input = .resetDuring c :: rest) →
    ∃ t, step s = .next t ∧ t.valid = ⟨false, false, false, false⟩ ∧ t.xs1024.p = 0 ∧ t.input = rest ∧
      t.payload = [] ∧ t.responses = s.responses

/-- The values R22 gives after reset. -/
def Obligations.ResetStateValues : Prop :=
  State.reset.valid = ⟨false, false, false, false⟩ ∧ State.reset.xs1024.p = 0

/-- A step always completes: the block cannot hang or stop (R128). -/
def Obligations.BlockNeverStops : Prop :=
  ∀ s : State, ∃ t, step s = .next t

/-- A list of commands runs to its end, with one response per command, in order, each with the status R47 gives it in the state
its command meets (R36, R45). -/
def Obligations.CommandListRunsInOrder : Prop :=
  ∀ (cs : List Command) (s : State), s.input = cs.map Input.command →
    ∃ (t : State) (rs : List Response),
      Host.Core.run Sys2Proof.core cs.length s = .next t ∧ t.input = [] ∧
      t.responses = s.responses ++ rs ∧ rs.length = cs.length ∧
      ∀ (k : Nat) (c : Command), cs[k]? = some c →
        ∃ (m : State) (r : Response), Host.Core.run Sys2Proof.core k s = .next m ∧ rs[k]? = some r ∧
          r.status = statusOf m.valid c

/-! ## Errors -/

/-- R121: a word is illegal exactly under the conditions listed, and then the command is answered `ERR_ILLEGAL`, its payload is
discarded, and nothing changes. -/
def Obligations.IllegalWordsAreRefused : Prop :=
  ∀ (s : State) (c : Command) (rest : List Input), s.input = .command c :: rest →
    (IllegalWord c.word → step s = .next (answered { s with input := rest } .errIllegal [])) ∧
    (¬ IllegalWord c.word → ∃ t r, step s = .next t ∧ t.responses = s.responses ++ [r] ∧ r.status ≠ .errIllegal)

/-- R122: `LDS u` with any other number of words than `STATE_SIZE(u)`, and every other instruction with a payload, answers
`ERR_LENGTH`; the unit is left as it was. For counts of `GEN` above 65535, which no word encodes, it
rests on the model's choice of log entry 14. -/
def Obligations.WrongPayloadLengthIsRefused : Prop :=
  (∀ (u : UnitId) (s : State),
    s.payload.length ≠ (match u with | .sm64 => 1 | .xs128 => 2 | .xo128 => 2 | .xs1024 => 16) →
    exec (ldsOf u) s = .next (answered s .errLength [])) ∧
  (∀ (i : Instr) (s : State), (∀ u : UnitId, i ≠ ldsOf u) → s.payload.length ≠ 0 →
    exec i s = .next (answered s .errLength []))

/-- R123: `NEXT`, `JUMP`, `RDS` and `GEN` of a unit that is not constructed, and `SEED` from one, answer `ERR_UNINIT`; `SIZE` and
`LDS` never do; `SEED` does not look at the flag of its target; after reset no flag is set. For counts
of `GEN` above 65535, which no word encodes, it rests on the model's choice of log entry 14. -/
def Obligations.UnconstructedUnitIsRefused : Prop :=
  (∀ (u : UnitId) (s : State), s.payload = [] → s.valid.get u = false →
    exec (nextOf u) s = .next (answered s .errUninit []) ∧
    (∀ i, jumpOf u = some i → exec i s = .next (answered s .errUninit [])) ∧
    exec (rdsOf u) s = .next (answered s .errUninit []) ∧
    (∀ n, exec (genOf u n) s = .next (answered s .errUninit [])) ∧
    (∀ target, exec (seedOf target u) s = .next (answered s .errUninit []))) ∧
  (∀ (u : UnitId) (s t : State), exec (sizeQueryOf u) s = .next t ∨ exec (ldsOf u) s = .next t →
    ∃ st data, t.responses = s.responses ++ [⟨st, data⟩] ∧ st ≠ .errUninit) ∧
  (∀ (target source : UnitId) (s : State), s.payload = [] → s.valid.get source = true →
    ∃ t, exec (seedOf target source) s = .next t ∧ t.responses = s.responses ++ [⟨.ok, []⟩]) ∧
  ∀ u : UnitId, State.reset.valid.get u = false

/-- R47 and R125: the status of every command is the one the decoding procedure gives, its checks in their order. -/
def Obligations.StatusFollowsDecodingProcedure : Prop :=
  ∀ (s : State) (c : Command) (rest : List Input), s.input = .command c :: rest →
    ∃ t data, step s = .next t ∧ t.responses = s.responses ++ [⟨statusOf s.valid c, data⟩]

/-- R124: a command that ends in an error carries no data and leaves every piece of state as it was, the block is ready for the
next command, and the same command sent again gives the same error; a command that passes the checks ends in `OK`. -/
def Obligations.ErrorsChangeNothing : Prop :=
  ∀ (s t : State) (c : Command) (rest : List Input), s.input = .command c :: rest → step s = .next t →
    ∃ r, t.responses = s.responses ++ [r] ∧ r.status = statusOf s.valid c ∧
      (r.status ≠ .ok →
        r.data = [] ∧
        t = { s with input := rest, payload := [], responses := s.responses ++ [r] } ∧
        ∀ rest' : List Input, ∃ t', step { t with input := .command c :: rest' } = .next t' ∧
          t'.responses = t.responses ++ [r])

/-- R128: every instruction whose payload has the right length and whose unit is constructed completes with `OK`, with as many
data words as the opcode map says (R41, R45). Counts of `GEN` above 65535, which no word encodes,
rest on log entry 14. -/
def Obligations.EveryCheckedCommandCompletes : Prop :=
  ∀ (i : Instr) (s : State), s.payload.length = payloadWords i →
    (∀ u, neededUnit i = some u → s.valid.get u = true) →
    ∃ t data, exec i s = .next t ∧ t.responses = s.responses ++ [⟨.ok, data⟩] ∧ data.length = responseWords i ∧
      t.payload = [] ∧ t.input = s.input

/-! ## The machine as a whole -/

/-- A step keeps the machine quiescent between commands and every response well shaped (R45, R124, R157). -/
def Obligations.QuiescenceIsKept : Prop :=
  ∀ s t : State, s.Quiescent → step s = .next t → t.Quiescent

/-- After reset nothing is in flight and every response is well shaped. That the model's own lists are empty at reset is the
model's choice (log entry 6). -/
def Obligations.QuiescentAfterReset : Prop :=
  State.Quiescent State.reset

/-- The flags (R15, R21 item 5): a command never clears one, and sets one only by constructing its unit with `LDS` or `SEED`. -/
def Obligations.FlagsAreSetOnlyByConstruction : Prop :=
  ∀ (s t : State) (c : Command) (rest : List Input) (u : UnitId), s.input = .command c :: rest → step s = .next t →
    (s.valid.get u = true → t.valid.get u = true) ∧
    (s.valid.get u = false → t.valid.get u = true →
      (decode c.word = .ok (ldsOf u) ∨ ∃ source, decode c.word = .ok (seedOf u source)) ∧
      t.responses = s.responses ++ [⟨.ok, []⟩])

/-- R21 item 3: an instruction changes no unit it does not name, neither its words nor its flag. For counts of `GEN`
above 65535, which no word encodes, it rests on the model's choice of log entry 14. -/
def Obligations.UnitsAreIndependent : Prop :=
  ∀ (i : Instr) (s t : State) (u : UnitId), exec i s = .next t → u ∉ named i →
    SameUnit u s t ∧ t.valid.get u = s.valid.get u

/-- R22: no unspecified value is ever read or returned. Two machines that differ only in the words of unconstructed units give the
same responses to the same input, whatever it is, resets included. -/
def Obligations.UnspecifiedWordsAreNeverSeen : Prop :=
  ∀ (k : Nat) (s t s' : State), AgreeButUnspecified s t → Host.Core.run Sys2Proof.core k s = .next s' →
    ∃ t', Host.Core.run Sys2Proof.core k t = .next t' ∧ AgreeButUnspecified s' t'

/-- No response is kept in the block (R19, R126): what a step does and answers is the same whatever was answered before. -/
def Obligations.ResponsesAreNeverRead : Prop :=
  ∀ (s t : State) (before : List Response), step s = .next t →
    ∃ new, t.responses = s.responses ++ new ∧
      step { s with responses := before } = .next { t with responses := before ++ new }

/-- R3: the answer of an instruction is a function of its payload and of the unit it reads. For counts of `GEN` above
65535, which no word encodes, it rests on the model's choice of log entry 14. -/
def Obligations.AnswerDependsOnTheUnitRead : Prop :=
  ∀ (i : Instr) (s t : State), s.payload = t.payload →
    (∀ u, neededUnit i = some u → SameUnit u s t ∧ s.valid.get u = t.valid.get u) →
    ∃ s' t' r, exec i s = .next s' ∧ exec i t = .next t' ∧
      s'.responses = s.responses ++ [r] ∧ t'.responses = t.responses ++ [r]

/-! ## Instruction by instruction -/

/-- `SIZE u` (R60, R70, R80, R90). -/
def Obligations.SizeRule : Prop :=
  FollowsRuleAlways .sizeSm64 0x70000000 0x03FFFFFF 0 id (fun _ => [1]) ∧
  FollowsRuleAlways .sizeXs128 0x74000000 0x03FFFFFF 0 id (fun _ => [2]) ∧
  FollowsRuleAlways .sizeXo128 0x78000000 0x03FFFFFF 0 id (fun _ => [2]) ∧
  FollowsRuleAlways .sizeXs1024 0x7C000000 0x03FFFFFF 0 id (fun _ => [16])

/-- `LDS u` (R61, R71, R81, R91): the state words become the payload words in order, the cursor of `XS1024` 0, the flag 1. -/
def Obligations.LdsRule : Prop :=
  FollowsRuleAlways .ldsSm64 0x30000000 0x03FFFFFF 1
    (fun s => { s with sm := ⟨s.payload.getD 0 0⟩, valid := { s.valid with sm64 := true } }) (fun _ => []) ∧
  FollowsRuleAlways .ldsXs128 0x34000000 0x03FFFFFF 2
    (fun s => { s with
      xs128 := ⟨s.payload.getD 0 0, s.payload.getD 1 0⟩, valid := { s.valid with xs128 := true } }) (fun _ => []) ∧
  FollowsRuleAlways .ldsXo128 0x38000000 0x03FFFFFF 2
    (fun s => { s with
      xo128 := ⟨s.payload.getD 0 0, s.payload.getD 1 0⟩, valid := { s.valid with xo128 := true } }) (fun _ => []) ∧
  FollowsRuleAlways .ldsXs1024 0x3C000000 0x03FFFFFF 16
    (fun s => { s with
      xs1024 := ⟨Vector.ofFn fun j : Fin 16 => s.payload.getD j.val 0, 0⟩
      valid := { s.valid with xs1024 := true } }) (fun _ => [])

/-- `RDS u` (R62, R72, R82, R92): the state words in index order, the cursor of `XS1024` last; nothing is written. -/
def Obligations.RdsRule : Prop :=
  FollowsRule .rdsSm64 0x40000000 0x03FFFFFF (fun s => s.valid.sm64) id (fun s => [s.sm.x]) ∧
  FollowsRule .rdsXs128 0x44000000 0x03FFFFFF (fun s => s.valid.xs128) id (fun s => [s.xs128.s0, s.xs128.s1]) ∧
  FollowsRule .rdsXo128 0x48000000 0x03FFFFFF (fun s => s.valid.xo128) id (fun s => [s.xo128.s0, s.xo128.s1]) ∧
  FollowsRule .rdsXs1024 0x4C000000 0x03FFFFFF (fun s => s.valid.xs1024) id
    (fun s => (List.finRange 16).map (fun j => s.xs1024.s[j]) ++ [BitVec.ofNat 64 s.xs1024.p.toNat])

/-- `NEXT SM64` (R63). -/
def Obligations.NextSm64Rule : Prop :=
  FollowsRule .nextSm64 0x10000000 0x03FFFFFF (fun s => s.valid.sm64)
    (fun s => { s with sm := ⟨0x9E3779B97F4A7C15 + s.sm.x⟩ })
    (fun s => [mixer (0x9E3779B97F4A7C15 + s.sm.x)])

/-- `NEXT XS128` (R73), as one simultaneous assignment from the old words. -/
def Obligations.NextXs128Rule : Prop :=
  FollowsRule .nextXs128 0x14000000 0x03FFFFFF (fun s => s.valid.xs128)
    (fun s =>
      let a := s.xs128.s0
      let b := s.xs128.s1
      let a' := a ^^^ (a <<< 23)
      { s with xs128 := ⟨b, a' ^^^ b ^^^ (a' >>> 18) ^^^ (b >>> 5)⟩ })
    (fun s => [s.xs128.s0 + s.xs128.s1])

/-- `NEXT XO128` (R83). -/
def Obligations.NextXo128Rule : Prop :=
  FollowsRule .nextXo128 0x18000000 0x03FFFFFF (fun s => s.valid.xo128)
    (fun s =>
      let a := s.xo128.s0
      let c := a ^^^ s.xo128.s1
      { s with xo128 := ⟨a.rotateLeft 55 ^^^ c ^^^ (c <<< 14), c.rotateLeft 36⟩ })
    (fun s => [s.xo128.s0 + s.xo128.s1])

/-- `NEXT XS1024` (R93): only the word after the cursor and the cursor itself change, and the answer comes from the new word. -/
def Obligations.NextXs1024Rule : Prop :=
  FollowsRule .nextXs1024 0x1C000000 0x03FFFFFF (fun s => s.valid.xs1024)
    (fun s => { s with xs1024 :=
      ⟨Vector.ofFn fun j : Fin 16 =>
        if j.val = (s.xs1024.p.toNat + 1) % 16 then newWord s.xs1024 else s.xs1024.s[j],
       BitVec.ofNat 4 ((s.xs1024.p.toNat + 1) % 16)⟩ })
    (fun s => [1181783497276652981 * newWord s.xs1024])

/-- `JUMP XS128` (R74): each word becomes the XOR of that word over the states reached after `n` steps, for the `n` whose bit of
the polynomial is 1. -/
def Obligations.JumpXs128Loop : Prop :=
  FollowsRule .jumpXs128 0x24000000 0x03FFFFFF (fun s => s.valid.xs128)
    (fun s =>
      let bit := polynomialBit [0x8A5CD789635D2DFF, 0x121FD2155C472F96]
      { s with xs128 :=
        ⟨xorSelected bit 128 fun n => (advanceXs128^[n] s.xs128).s0,
         xorSelected bit 128 fun n => (advanceXs128^[n] s.xs128).s1⟩ })
    (fun _ => [])

/-- `JUMP XO128` (R84). -/
def Obligations.JumpXo128Loop : Prop :=
  FollowsRule .jumpXo128 0x28000000 0x03FFFFFF (fun s => s.valid.xo128)
    (fun s =>
      let bit := polynomialBit [0xBEAC0467EBA5FACB, 0xD86B048B86AA9922]
      { s with xo128 :=
        ⟨xorSelected bit 128 fun n => (advanceXo128^[n] s.xo128).s0,
         xorSelected bit 128 fun n => (advanceXo128^[n] s.xo128).s1⟩ })
    (fun _ => [])

/-- `JUMP XS1024` (R94), with the polynomial of `Config.jump1024` (log entry 8): word `j` past the cursor becomes the XOR of the
words `j` past the cursors of the states reached after `n` steps, for the `n` whose bit is 1; the cursor ends where it was. -/
def Obligations.JumpXs1024Loop : Prop :=
  FollowsRule .jumpXs1024 0x2C000000 0x03FFFFFF (fun s => s.valid.xs1024)
    (fun s => { s with xs1024 :=
      ⟨Vector.ofFn fun k : Fin 16 =>
        xorSelected (polynomialBit Config.jump1024) 1024 fun n =>
          viewWord (advanceXs1024^[n] s.xs1024) ((k.val + 16 - s.xs1024.p.toNat) % 16),
       s.xs1024.p⟩ })
    (fun _ => [])

/-- `SEED t, s` (R100 to R104, R106): the target's words become the source's next outputs in order, the source is left that many
steps on unless it is the target, the cursor of `XS1024` becomes 0 and the target's flag 1; nothing is returned. -/
def Obligations.SeedRule : Prop :=
  ∀ source : UnitId,
    FollowsRule (.seedSm64 source) (0x50000000 ||| ((unitNumber source).setWidth 32 <<< 24)) 0x00FFFFFF
      (fun s => s.valid.get source)
      (fun s => { afterNexts source 1 s with
        sm := ⟨output source 0 s⟩, valid := { s.valid with sm64 := true } }) (fun _ => []) ∧
    FollowsRule (.seedXs128 source) (0x54000000 ||| ((unitNumber source).setWidth 32 <<< 24)) 0x00FFFFFF
      (fun s => s.valid.get source)
      (fun s => { afterNexts source 2 s with
        xs128 := ⟨output source 0 s, output source 1 s⟩, valid := { s.valid with xs128 := true } }) (fun _ => []) ∧
    FollowsRule (.seedXo128 source) (0x58000000 ||| ((unitNumber source).setWidth 32 <<< 24)) 0x00FFFFFF
      (fun s => s.valid.get source)
      (fun s => { afterNexts source 2 s with
        xo128 := ⟨output source 0 s, output source 1 s⟩, valid := { s.valid with xo128 := true } }) (fun _ => []) ∧
    FollowsRule (.seedXs1024 source) (0x5C000000 ||| ((unitNumber source).setWidth 32 <<< 24)) 0x00FFFFFF
      (fun s => s.valid.get source)
      (fun s => { afterNexts source 16 s with
        xs1024 := ⟨Vector.ofFn fun i : Fin 16 => output source i.val s, 0⟩
        valid := { s.valid with xs1024 := true } }) (fun _ => [])

/-- `GEN u, n` (R110 to R114): the next `n` outputs in order; the unit is left `n` steps on, which for `XS1024` moves the
cursor by `n`. -/
def Obligations.GenRule : Prop :=
  ∀ n : Nat, n < 65536 →
    FollowsRule (.genSm64 n) (0x60000000 + BitVec.ofNat 32 n) 0x03FF0000 (fun s => s.valid.sm64)
      (afterNexts .sm64 n) (fun s => (List.range n).map fun k => output .sm64 k s) ∧
    FollowsRule (.genXs128 n) (0x64000000 + BitVec.ofNat 32 n) 0x03FF0000 (fun s => s.valid.xs128)
      (afterNexts .xs128 n) (fun s => (List.range n).map fun k => output .xs128 k s) ∧
    FollowsRule (.genXo128 n) (0x68000000 + BitVec.ofNat 32 n) 0x03FF0000 (fun s => s.valid.xo128)
      (afterNexts .xo128 n) (fun s => (List.range n).map fun k => output .xo128 k s) ∧
    FollowsRule (.genXs1024 n) (0x6C000000 + BitVec.ofNat 32 n) 0x03FF0000 (fun s => s.valid.xs1024)
      (afterNexts .xs1024 n) (fun s => (List.range n).map fun k => output .xs1024 k s) ∧
    ∀ s : State, (afterNexts .xs1024 n s).xs1024.p.toNat = (s.xs1024.p.toNat + n) % 16

/-! ## Properties the rules have -/

/-- R65 item 1: `GEN SM64, n` adds `n` times `GAMMA` to the counter, and its `k`-th output is the mixer of the counter after `k`
additions. Counts above 65535, which no word encodes, rest on log entry 14. -/
def Obligations.Sm64CountsByGamma : Prop :=
  ∀ (n : Nat) (s : State), s.payload = [] → s.valid.sm64 = true →
    exec (.genSm64 n) s = .next (answered
      { s with sm := ⟨s.sm.x + BitVec.ofNat 64 n * 0x9E3779B97F4A7C15⟩ } .ok
      ((List.range n).map fun k => mixer (s.sm.x + BitVec.ofNat 64 (k + 1) * 0x9E3779B97F4A7C15)))

/-- R65 item 2: the counter of SM64 visits all 2^64 values before repeating. -/
def Obligations.Sm64VisitsEveryWord : Prop :=
  ∀ x y : Word64, ∃! k : Nat, k < 2 ^ 64 ∧ ((fun u : Sm64Regs => (nextSm64 u).2)^[k] ⟨x⟩).x = y

/-- R115 item 1: `GEN u, n` returns the words of `n` successive `NEXT u` and leaves the same state. Counts above 65535,
which no word encodes, rest on log entry 14. -/
def Obligations.GenIsRepeatedNext : Prop :=
  ∀ (u : UnitId) (n : Nat) (s : State), s.payload = [] → s.valid.get u = true →
    ∃ (words : List Word64) (t : State),
      exec (genOf u n) s = .next { t with responses := s.responses ++ [⟨.ok, words⟩] } ∧
      execTimes (nextOf u) n s = .next { t with responses := s.responses ++ words.map fun w => ⟨.ok, [w]⟩ } ∧
      words.length = n

/-- R115 item 2, without its bound `a + b <= 65535`: two `GEN` in a row return, concatenated, what one `GEN` of the sum returns,
and leave the same state. For sums above 65535, which no word encodes, it rests on the model's choice of log entry 14. -/
def Obligations.GenSplits : Prop :=
  ∀ (u : UnitId) (a b : Nat) (s : State), s.payload = [] → s.valid.get u = true →
    ∃ (as bs : List Word64) (m t : State),
      exec (genOf u a) s = .next m ∧ m.responses = s.responses ++ [⟨.ok, as⟩] ∧
      exec (genOf u b) m = .next t ∧ t.responses = m.responses ++ [⟨.ok, bs⟩] ∧
      exec (genOf u (a + b)) s = .next { t with responses := s.responses ++ [⟨.ok, as ++ bs⟩] }

/-- From two zero words `NEXT` returns 0, `GEN` returns zeros, and `NEXT`, `GEN` and `JUMP` leave the state zero, which R76 and R86
infer from R73 and R83. Counts above 65535, which no word encodes, rest on the model's choice of log entry 14. Completion is said
here from all-zero words only. -/
def Obligations.TwoWordUnitsStayZero : Prop :=
  (∀ (s : State) (n : Nat), s.payload = [] → s.valid.xs128 = true → s.xs128 = ⟨0, 0⟩ →
    exec .nextXs128 s = .next (answered s .ok [0]) ∧
    exec .jumpXs128 s = .next (answered s .ok []) ∧
    exec (.genXs128 n) s = .next (answered s .ok (List.replicate n 0))) ∧
  (∀ (s : State) (n : Nat), s.payload = [] → s.valid.xo128 = true → s.xo128 = ⟨0, 0⟩ →
    exec .nextXo128 s = .next (answered s .ok [0]) ∧
    exec .jumpXo128 s = .next (answered s .ok []) ∧
    exec (.genXo128 n) s = .next (answered s .ok (List.replicate n 0)))

/-- Sixteen zero words stay zero, `NEXT` and `GEN` return zeros and move the cursor, `JUMP` leaves it, which R97 infers from R93.
Counts above 65535, which no word encodes, rest on the model's choice of log entry 14. Completion is said here from all-zero words
only. -/
def Obligations.Xs1024StaysZero : Prop :=
  ∀ (s : State) (n : Nat), s.payload = [] → s.valid.xs1024 = true → s.xs1024.s = Vector.replicate 16 0 →
    exec .nextXs1024 s = .next (answered
      { s with xs1024 := ⟨s.xs1024.s, BitVec.ofNat 4 (s.xs1024.p.toNat + 1)⟩ } .ok [0]) ∧
    exec .jumpXs1024 s = .next (answered s .ok []) ∧
    exec (.genXs1024 n) s = .next (answered
      { s with xs1024 := ⟨s.xs1024.s, BitVec.ofNat 4 (s.xs1024.p.toNat + n)⟩ } .ok (List.replicate n 0))

/-- R77 item 1 and R87 item 1: the state maps are invertible, and a non-zero state is never followed by the all-zero state, after
any number of steps. -/
def Obligations.TwoWordNextIsInvertible : Prop :=
  Function.Bijective advanceXs128 ∧ Function.Bijective advanceXo128 ∧
  (∀ (k : Nat) (u : Xs128Regs), u ≠ ⟨0, 0⟩ → advanceXs128^[k] u ≠ ⟨0, 0⟩) ∧
  (∀ (k : Nat) (u : Xo128Regs), u ≠ ⟨0, 0⟩ → advanceXo128^[k] u ≠ ⟨0, 0⟩)

/-- R98 item 1: the same for XS1024, whatever the cursor. -/
def Obligations.Xs1024NextIsInvertible : Prop :=
  Function.Bijective advanceXs1024 ∧
  ∀ (k : Nat) (u : Xs1024Regs), u.s ≠ Vector.replicate 16 0 → (advanceXs1024^[k] u).s ≠ Vector.replicate 16 0

/-- R98 item 5: multiplying by `MUL1024` is a bijection, and the output of `NEXT XS1024` is that product of the word just written
(the word at the new cursor), so different words give different outputs; it is 0 exactly when that word is 0. -/
def Obligations.OutputOfXs1024IsInjective : Prop :=
  Function.Bijective (fun w : Word64 => 1181783497276652981 * w) ∧
  (∀ u : Xs1024Regs, (nextXs1024 u).1 = 1181783497276652981 * viewWord (nextXs1024 u).2 0) ∧
  ∀ u : Xs1024Regs, (nextXs1024 u).1 = 0 ↔ viewWord (nextXs1024 u).2 0 = 0

/-- `JUMP` commutes with `NEXT`: R75 and R85 say so of XS128 and XO128. For XS1024, with the polynomial of `Config.jump1024` (log
entry 8), it follows from R94 and R95: `JUMP` is 2^512 `Next` steps and keeps the cursor. -/
def Obligations.JumpCommutesWithNext : Prop :=
  (∀ u : Xs128Regs, jumpXs128 (advanceXs128 u) = advanceXs128 (jumpXs128 u)) ∧
  (∀ u : Xo128Regs, jumpXo128 (advanceXo128 u) = advanceXo128 (jumpXo128 u)) ∧
  (∀ u : Xs1024Regs, jumpXs1024 (advanceXs1024 u) = advanceXs1024 (jumpXs1024 u))

/-- R75: `JUMP XS128` is 2^64 `Next` steps, from every state. -/
def Obligations.JumpXs128IsTwoToThe64Steps : Prop :=
  ∀ s : State, s.payload = [] → s.valid.xs128 = true →
    exec .jumpXs128 s = .next (answered { s with xs128 := advanceXs128^[2 ^ 64] s.xs128 } .ok [])

/-- R85: `JUMP XO128` is 2^64 `Next` steps, from every state. -/
def Obligations.JumpXo128IsTwoToThe64Steps : Prop :=
  ∀ s : State, s.payload = [] → s.valid.xo128 = true →
    exec .jumpXo128 s = .next (answered { s with xo128 := advanceXo128^[2 ^ 64] s.xo128 } .ok [])

/-- R94 and R95: `JUMP XS1024` with the polynomial of `Config.jump1024` (log entry 8) is 2^512 `Next` steps, from every state and
cursor. -/
def Obligations.JumpXs1024IsTwoToThe512Steps : Prop :=
  ∀ s : State, s.payload = [] → s.valid.xs1024 = true →
    exec .jumpXs1024 s = .next (answered { s with xs1024 := advanceXs1024^[2 ^ 512] s.xs1024 } .ok [])

/-- R77 item 3 and R87 item 3: two different states stay different after equal numbers of jumps. -/
def Obligations.JumpKeepsStatesApart : Prop :=
  (∀ (k : Nat) (u v : Xs128Regs), u ≠ v → jumpXs128^[k] u ≠ jumpXs128^[k] v) ∧
  (∀ (k : Nat) (u v : Xo128Regs), u ≠ v → jumpXo128^[k] u ≠ jumpXo128^[k] v)

/-- R14: the cursor is set to 0 by construction, moved on by one, modulo 16, at each `Next` step (of `NEXT`, of `GEN` and of a
`SEED` that draws from the unit), left by `JUMP`, and read out last; no other command touches it. Counts of `GEN` above 65535,
which no word encodes, rest on the model's choice of log entry 14. Completion of a `SEED` into another unit is said here for the
source `XS1024` only. -/
def Obligations.CursorRule : Prop :=
  (∀ s : State, s.payload.length = 16 → ∃ t, exec .ldsXs1024 s = .next t ∧ t.xs1024.p = 0) ∧
  (∀ (s : State) (source : UnitId), s.payload = [] → s.valid.get source = true →
    ∃ t, exec (.seedXs1024 source) s = .next t ∧ t.xs1024.p = 0) ∧
  (∀ (s : State) (target : UnitId), target ≠ .xs1024 → s.payload = [] → s.valid.xs1024 = true →
    ∃ t, exec (seedOf target .xs1024) s = .next t ∧ t.xs1024.p.toNat = (s.xs1024.p.toNat + target.stateSize) % 16) ∧
  (∀ s : State, s.payload = [] → s.valid.xs1024 = true →
    (∃ t, exec .nextXs1024 s = .next t ∧ t.xs1024.p.toNat = (s.xs1024.p.toNat + 1) % 16) ∧
    (∀ n, ∃ t, exec (.genXs1024 n) s = .next t ∧ t.xs1024.p.toNat = (s.xs1024.p.toNat + n) % 16) ∧
    (∃ t, exec .jumpXs1024 s = .next t ∧ t.xs1024.p = s.xs1024.p) ∧
    (∃ t data, exec .rdsXs1024 s = .next t ∧ t.xs1024 = s.xs1024 ∧
      t.responses = s.responses ++ [⟨.ok, data⟩] ∧ data[16]? = some (s.xs1024.p.setWidth 64))) ∧
  (∀ (i : Instr) (s t : State), exec i s = .next t →
    (i = .sizeXs1024 ∨ UnitId.xs1024 ∉ named i) → t.xs1024.p = s.xs1024.p)

/-- R96: only the rotated view matters. Two register states with the same view give the same outputs and keep the same view under
`Next` and `Jump`, and the view after a step is the one the rule gives. -/
def Obligations.OnlyTheRotatedViewMatters : Prop :=
  (∀ u v : Xs1024Regs, (∀ j < 16, viewWord u j = viewWord v j) →
    (∀ k : Nat, (nextXs1024 (advanceXs1024^[k] u)).1 = (nextXs1024 (advanceXs1024^[k] v)).1) ∧
    (∀ (k j : Nat), j < 16 → viewWord (advanceXs1024^[k] u) j = viewWord (advanceXs1024^[k] v) j) ∧
    (∀ j < 16, viewWord (jumpXs1024 u) j = viewWord (jumpXs1024 v) j)) ∧
  (∀ u : Xs1024Regs,
    (∀ j, 1 ≤ j → j ≤ 14 → viewWord (advanceXs1024 u) j = viewWord u (j + 1)) ∧
    viewWord (advanceXs1024 u) 15 = viewWord u 0)

/-- R62, R72, R82, R91, R92 and R154: what `RDS` returned, loaded into any machine, gives a unit with the same outputs for ever;
for `XS1024` the sixteen words are loaded rotated by the cursor word that came with them. -/
def Obligations.SavedStateResumes : Prop :=
  ∀ (u : UnitId) (s t : State) (words : List Word64) (n : Nat),
    s.payload = [] → s.valid.get u = true →
    exec (rdsOf u) s = .next (answered s .ok words) →
    t.payload = (if u = .xs1024 then
        (List.range 16).map fun j => words.getD ((j + (words.getD 16 0).toNat) % 16) 0
      else words) →
    ∃ t' : State, exec (ldsOf u) t = .next t' ∧ t'.valid.get u = true ∧
      ((List.range n).map fun k => output u k t') = (List.range n).map fun k => output u k s

/-- R107 item 1: after `SEED t, s` from another unit, `RDS t` returns the words `GEN s` would have returned from the same state
(then a cursor word of 0 for `XS1024`), and the source ends in the same state either way. -/
def Obligations.SeedReadsOutAsGen : Prop :=
  ∀ (target source : UnitId) (s : State), target ≠ source → s.payload = [] → s.valid.get source = true →
    ∃ (words : List Word64) (seeded read generated : State),
      exec (seedOf target source) s = .next seeded ∧
      exec (rdsOf target) seeded = .next read ∧
      exec (genOf source target.stateSize) s = .next generated ∧
      generated.responses = s.responses ++ [⟨.ok, words⟩] ∧
      read.responses = s.responses ++ [⟨.ok, []⟩, ⟨.ok, words ++ if target = .xs1024 then [0] else []⟩] ∧
      SameUnit source seeded generated

/-- R105: the two commands of `SEEDSM t, seed`, written out, are both answered `OK`; unit `t` then reads out as the first outputs
of SplitMix64 from `seed`, in order, with the cursor of `XS1024` 0; both flags are set; and `SM64` has been stepped once for each
word, or, where it is the target, holds the first output. -/
def Obligations.SeedsmRule : Prop :=
  ∀ (target : UnitId) (seed : Word64),
    expandSeedsm target seed =
      [⟨0x30000000, [seed]⟩, ⟨0x50000000 ||| ((unitNumber target).setWidth 32 <<< 26), []⟩] ∧
    ∀ s : State, s.input = (expandSeedsm target seed).map Input.command →
    ∃ t : State,
      Host.Core.run Sys2Proof.core 2 s = .next t ∧
      t.responses = s.responses ++ [⟨.ok, []⟩, ⟨.ok, []⟩] ∧
      t.valid.get target = true ∧ t.valid.sm64 = true ∧
      readOut target t =
        ((List.range target.stateSize).map fun k => mixer (seed + BitVec.ofNat 64 (k + 1) * 0x9E3779B97F4A7C15)) ++
          (if target = .xs1024 then [0] else []) ∧
      (target ≠ .sm64 → t.sm.x = seed + BitVec.ofNat 64 target.stateSize * 0x9E3779B97F4A7C15)
end

