-- ==== Sys2Proof/Laws/Decode.lean ====
section
/-! SUPPORT. The fields of a packed word, the word packed from its fields, and the codes of units and operations. -/

namespace Sys2Proof

/-! ## A word and its five fields determine each other (R40) -/

section
variable (op : BitVec 4) (t s : BitVec 2) (z : BitVec 8) (n : BitVec 16)

theorem opField_packFields : opField (packFields op t s z n) = op := by
  ext i hi
  simp [opField, packFields]
  grind

theorem tField_packFields : tField (packFields op t s z n) = t := by
  ext i hi
  simp [tField, packFields]
  grind

theorem sField_packFields : sField (packFields op t s z n) = s := by
  ext i hi
  simp [sField, packFields]
  grind

theorem zField_packFields : zField (packFields op t s z n) = z := by
  ext i hi
  simp [zField, packFields]
  grind

theorem nField_packFields : nField (packFields op t s z n) = n := by
  ext i hi
  simp [nField, packFields]
  grind

end

theorem packFields_fields (w : CommandWord) :
    packFields (opField w) (tField w) (sField w) (zField w) (nField w) = w := by
  ext i hi
  simp [opField, tField, sField, zField, nField, packFields]
  grind

/-! ## Units and operations (R41, R42) -/

@[simp] theorem unitOfNumber_unitNumber (u : UnitId) : unitOfNumber (unitNumber u) = u := by cases u <;> rfl

theorem unitNumber_unitOfNumber (b : BitVec 2) : unitNumber (unitOfNumber b) = b := by revert b; decide

@[simp] theorem operationOfCode_operationCode (op : Operation) : operationOfCode (operationCode op) = some op := by
  cases op <;> rfl

theorem operationCode_of_some {b : BitVec 4} {op : Operation} (h : operationOfCode b = some op) : operationCode op = b := by
  revert b op; decide

end Sys2Proof
end

