-- ==== Sys2Proof/Laws/State.lean ====
section
/-! SUPPORT. What each update of the state leaves in each field, one lemma per field per update, and the flags. -/

namespace Sys2Proof.Machine

open Sys2Proof

/-! ## Answering a command -/

section
variable (s : State) (st : Status) (data : List Word64)

@[simp] theorem answer_sm : (s.answer st data).sm = s.sm := rfl
@[simp] theorem answer_xs128 : (s.answer st data).xs128 = s.xs128 := rfl
@[simp] theorem answer_xo128 : (s.answer st data).xo128 = s.xo128 := rfl
@[simp] theorem answer_xs1024 : (s.answer st data).xs1024 = s.xs1024 := rfl
@[simp] theorem answer_valid : (s.answer st data).valid = s.valid := rfl
@[simp] theorem answer_input : (s.answer st data).input = s.input := rfl
@[simp] theorem answer_payload : (s.answer st data).payload = [] := rfl
@[simp] theorem answer_responses : (s.answer st data).responses = s.responses ++ [⟨st, data⟩] := rfl
@[simp] theorem answer_free : (s.answer st data).free = s.free := rfl

theorem respond_eq : respond st data s = .next (s.answer st data) := rfl
theorem raise_eq : raise st s = .next (s.answer st []) := rfl

end

/-! ## Accepting a command and dropping an input -/

section
variable (s : State) (c : Command)

@[simp] theorem dropInput_sm : (dropInput s).sm = s.sm := rfl
@[simp] theorem dropInput_xs128 : (dropInput s).xs128 = s.xs128 := rfl
@[simp] theorem dropInput_xo128 : (dropInput s).xo128 = s.xo128 := rfl
@[simp] theorem dropInput_xs1024 : (dropInput s).xs1024 = s.xs1024 := rfl
@[simp] theorem dropInput_valid : (dropInput s).valid = s.valid := rfl
@[simp] theorem dropInput_input : (dropInput s).input = s.input.tail := rfl
@[simp] theorem dropInput_payload : (dropInput s).payload = s.payload := rfl
@[simp] theorem dropInput_responses : (dropInput s).responses = s.responses := rfl
@[simp] theorem dropInput_free : (dropInput s).free = s.free := rfl

@[simp] theorem acceptCommand_sm : (acceptCommand c s).sm = s.sm := rfl
@[simp] theorem acceptCommand_xs128 : (acceptCommand c s).xs128 = s.xs128 := rfl
@[simp] theorem acceptCommand_xo128 : (acceptCommand c s).xo128 = s.xo128 := rfl
@[simp] theorem acceptCommand_xs1024 : (acceptCommand c s).xs1024 = s.xs1024 := rfl
@[simp] theorem acceptCommand_valid : (acceptCommand c s).valid = s.valid := rfl
@[simp] theorem acceptCommand_input : (acceptCommand c s).input = s.input.tail := rfl
@[simp] theorem acceptCommand_payload : (acceptCommand c s).payload = c.payload := rfl
@[simp] theorem acceptCommand_responses : (acceptCommand c s).responses = s.responses := rfl
@[simp] theorem acceptCommand_free : (acceptCommand c s).free = s.free := rfl

end

/-! ## Reset -/

section
variable (s : State)

@[simp] theorem resetBlock_valid : (resetBlock s).valid = ⟨false, false, false, false⟩ := rfl
@[simp] theorem resetBlock_cursor : (resetBlock s).xs1024.p = 0 := rfl
@[simp] theorem resetBlock_input : (resetBlock s).input = s.input := rfl
@[simp] theorem resetBlock_payload : (resetBlock s).payload = [] := rfl
@[simp] theorem resetBlock_responses : (resetBlock s).responses = s.responses := rfl
@[simp] theorem resetBlock_free : (resetBlock s).free = s.free + 21 := rfl

end

/-! ## The constructed flags -/

section
variable (v : ValidFlags) (u u' : UnitId)

@[simp] theorem get_mark_self : (v.mark u).get u = true := by cases u <;> rfl

theorem get_mark : (v.mark u).get u' = (decide (u' = u) || v.get u') := by
  cases u <;> cases u' <;> rfl

/-- Marking never clears a flag (R15). -/
theorem get_mark_mono (h : v.get u' = true) : (v.mark u).get u' = true := by
  simp [get_mark, h]

@[simp] theorem get_none_valid : (ValidFlags.mk false false false false).get u = false := by
  cases u <;> rfl

end

end Sys2Proof.Machine
end

