-- ==== Sys2Proof/Laws/Ops.lean ====
section
/-! SUPPORT. One specification per shared operation: what the two checks can answer, what `Next`, a run of draws and a
construction do and leave alone, and what the loop of `JUMP` computes. -/

namespace Sys2Proof.Machine

open Sys2Proof

/-! ## Arithmetic: the primitives are the bit-vector operations -/

theorem add64_eq_add (a b : Word64) : add64 a b = a + b := by
  apply BitVec.eq_of_toNat_eq
  simp [add64, Nat.add_comm]

theorem mul64_eq_mul (a b : Word64) : mul64 a b = a * b := by
  apply BitVec.eq_of_toNat_eq
  simp [mul64, Nat.mul_comm]

/-! ## The checks of R47 -/

theorem whenPayload_ok {n : Nat} {s : State} {body : Host.Outcome State Fault Refusal}
    (h : s.payload.length = n) : whenPayload n s body = body := by
  simp [whenPayload, h]

theorem whenPayload_wrong {n : Nat} {s : State} {body : Host.Outcome State Fault Refusal}
    (h : s.payload.length ≠ n) : whenPayload n s body = .next (s.answer .errLength []) := by
  simp [whenPayload, h, raise_eq]

theorem whenConstructed_ok {u : UnitId} {s : State} {body : Host.Outcome State Fault Refusal}
    (h : s.valid.get u = true) : whenConstructed u s body = body := by
  simp [whenConstructed, h]

theorem whenConstructed_refused {u : UnitId} {s : State} {body : Host.Outcome State Fault Refusal}
    (h : s.valid.get u = false) : whenConstructed u s body = .next (s.answer .errUninit []) := by
  simp [whenConstructed, h, raise_eq]

/-- What a command with both checks can answer: the first error that applies, or its own effect. -/
theorem checked_cases (n : Nat) (u : UnitId) (s : State) (body : Host.Outcome State Fault Refusal) :
    (s.payload.length ≠ n ∧ whenPayload n s (whenConstructed u s body) = .next (s.answer .errLength [])) ∨
    (s.payload.length = n ∧ s.valid.get u = false ∧
      whenPayload n s (whenConstructed u s body) = .next (s.answer .errUninit [])) ∨
    (s.payload.length = n ∧ s.valid.get u = true ∧ whenPayload n s (whenConstructed u s body) = body) := by
  by_cases h : s.payload.length = n
  · rw [whenPayload_ok h]
    cases hv : s.valid.get u
    · exact .inr (.inl ⟨h, rfl, whenConstructed_refused hv⟩)
    · exact .inr (.inr ⟨h, rfl, whenConstructed_ok hv⟩)
  · exact .inl ⟨h, whenPayload_wrong h⟩

/-! ## `Next_u()` and runs of draws -/

section
variable (u : UnitId) (s : State)

@[simp] theorem nextUnit_valid : (nextUnit u s).2.valid = s.valid := by cases u <;> rfl
@[simp] theorem nextUnit_input : (nextUnit u s).2.input = s.input := by cases u <;> rfl
@[simp] theorem nextUnit_payload : (nextUnit u s).2.payload = s.payload := by cases u <;> rfl
@[simp] theorem nextUnit_responses : (nextUnit u s).2.responses = s.responses := by cases u <;> rfl
@[simp] theorem nextUnit_free : (nextUnit u s).2.free = s.free := by cases u <;> rfl

/-- A `Next` touches no unit but its own (R21 item 3). -/
theorem nextUnit_sm (h : u ≠ .sm64) : (nextUnit u s).2.sm = s.sm := by
  cases u <;> first | rfl | exact absurd rfl h

theorem nextUnit_xs128 (h : u ≠ .xs128) : (nextUnit u s).2.xs128 = s.xs128 := by
  cases u <;> first | rfl | exact absurd rfl h

theorem nextUnit_xo128 (h : u ≠ .xo128) : (nextUnit u s).2.xo128 = s.xo128 := by
  cases u <;> first | rfl | exact absurd rfl h

theorem nextUnit_xs1024 (h : u ≠ .xs1024) : (nextUnit u s).2.xs1024 = s.xs1024 := by
  cases u <;> first | rfl | exact absurd rfl h

@[simp] theorem draw_zero : draw u 0 s = ([], s) := rfl

theorem draw_succ (n : Nat) :
    draw u (n + 1) s = ((nextUnit u s).1 :: (draw u n (nextUnit u s).2).1, (draw u n (nextUnit u s).2).2) := rfl

end

/-- A run keeps whatever every single `Next` of the unit keeps. -/
theorem draw_keeps {β : Type} (f : State → β) (u : UnitId) (hf : ∀ s, f (nextUnit u s).2 = f s) (n : Nat) (s : State) :
    f (draw u n s).2 = f s := by
  induction n generalizing s with
  | zero => rfl
  | succ n ih => rw [draw_succ]; exact (ih _).trans (hf s)

section
variable (u : UnitId) (n : Nat) (s : State)

@[simp] theorem draw_valid : (draw u n s).2.valid = s.valid := draw_keeps State.valid u (nextUnit_valid u) n s
@[simp] theorem draw_input : (draw u n s).2.input = s.input := draw_keeps State.input u (nextUnit_input u) n s
@[simp] theorem draw_payload : (draw u n s).2.payload = s.payload := draw_keeps State.payload u (nextUnit_payload u) n s
@[simp] theorem draw_responses : (draw u n s).2.responses = s.responses :=
  draw_keeps State.responses u (nextUnit_responses u) n s
@[simp] theorem draw_free : (draw u n s).2.free = s.free := draw_keeps State.free u (nextUnit_free u) n s

theorem draw_sm (h : u ≠ .sm64) : (draw u n s).2.sm = s.sm :=
  draw_keeps State.sm u (fun s => nextUnit_sm u s h) n s
theorem draw_xs128 (h : u ≠ .xs128) : (draw u n s).2.xs128 = s.xs128 :=
  draw_keeps State.xs128 u (fun s => nextUnit_xs128 u s h) n s
theorem draw_xo128 (h : u ≠ .xo128) : (draw u n s).2.xo128 = s.xo128 :=
  draw_keeps State.xo128 u (fun s => nextUnit_xo128 u s h) n s
theorem draw_xs1024 (h : u ≠ .xs1024) : (draw u n s).2.xs1024 = s.xs1024 :=
  draw_keeps State.xs1024 u (fun s => nextUnit_xs1024 u s h) n s

@[simp] theorem draw_length : (draw u n s).1.length = n := by
  induction n generalizing s with
  | zero => rfl
  | succ n ih => simp [draw_succ, ih]

end

/-! ## Construction and read-out -/

section
variable (u : UnitId) (words : List Word64) (s : State)

@[simp] theorem construct_input : (construct u words s).input = s.input := by
  unfold construct; split <;> split <;> rfl
@[simp] theorem construct_payload : (construct u words s).payload = s.payload := by
  unfold construct; split <;> split <;> rfl
@[simp] theorem construct_responses : (construct u words s).responses = s.responses := by
  unfold construct; split <;> split <;> rfl
@[simp] theorem construct_free : (construct u words s).free = s.free := by
  unfold construct; split <;> split <;> rfl

/-- Construction touches no unit but its own (R21 item 3). -/
theorem construct_sm (h : u ≠ .sm64) : (construct u words s).sm = s.sm := by
  cases u <;> simp only [construct] <;> first | exact absurd rfl h | (split <;> rfl)
theorem construct_xs128 (h : u ≠ .xs128) : (construct u words s).xs128 = s.xs128 := by
  cases u <;> simp only [construct] <;> first | exact absurd rfl h | (split <;> rfl)
theorem construct_xo128 (h : u ≠ .xo128) : (construct u words s).xo128 = s.xo128 := by
  cases u <;> simp only [construct] <;> first | exact absurd rfl h | (split <;> rfl)
theorem construct_xs1024 (h : u ≠ .xs1024) : (construct u words s).xs1024 = s.xs1024 := by
  cases u <;> simp only [construct] <;> first | exact absurd rfl h | (split <;> rfl)

/-- A list of the right length sets the flag of the unit and no other (R15). -/
theorem construct_valid (h : words.length = u.stateSize) : (construct u words s).valid = s.valid.mark u := by
  cases u
  · match words, h with
    | [_], _ => rfl
  · match words, h with
    | [_, _], _ => rfl
  · match words, h with
    | [_, _], _ => rfl
  · simp only [construct, dif_pos (show words.length = 16 from h)]

/-- What was constructed from reads out again, with the cursor at 0 for `XS1024` (R23, R91, R107). -/
theorem readOut_construct (h : words.length = u.stateSize) :
    readOut u (construct u words s) = words ++ (if u = .xs1024 then [0] else []) := by
  cases u
  · match words, h with
    | [_], _ => rfl
  · match words, h with
    | [_, _], _ => rfl
  · match words, h with
    | [_, _], _ => rfl
  · simp [construct, readOut, dif_pos (show words.length = 16 from h)]

end

/-! ## The loop of `JUMP` -/

/-- The loop runs bit by bit, so a polynomial may be split anywhere. -/
theorem jumpLoop_append {σ α : Type} (xorInto : α → α → α) (view : σ → α) (advance : σ → σ) (as bs : List Bool) (acc : α)
    (u : σ) :
    jumpLoop xorInto view advance (as ++ bs) acc u =
      jumpLoop xorInto view advance bs (jumpLoop xorInto view advance as acc u).1
        (jumpLoop xorInto view advance as acc u).2 := by
  induction as generalizing acc u with
  | nil => rfl
  | cons a as ih => exact ih _ _

/-- One advance per bit, set or not: the loop leaves the state that many steps on (R74 reading note 1). -/
theorem jumpLoop_state {σ α : Type} (xorInto : α → α → α) (view : σ → α) (advance : σ → σ) (bits : List Bool) (acc : α)
    (u : σ) : (jumpLoop xorInto view advance bits acc u).2 = advance^[bits.length] u := by
  induction bits generalizing acc u with
  | nil => rfl
  | cons b bs ih => exact ih _ _

theorem polynomialBits_length (words : List Word64) : (polynomialBits words).length = 64 * words.length := by
  induction words with
  | nil => rfl
  | cons w ws ih =>
    have : polynomialBits (w :: ws) = ((List.range 64).map fun b => w.getLsbD b) ++ polynomialBits ws := rfl
    rw [this, List.length_append, ih]
    simp; omega

/-! ## The rotated view of XS1024 -/

theorem wordAt_rotatedView (u : Xs1024Regs) (j : BitVec 4) : wordAt (rotatedView u) j = wordAt u.s (j + u.p) := by
  simp only [wordAt, rotatedView, Vector.getElem_ofFn, BitVec.ofNat_toNat, BitVec.setWidth_eq]

theorem wordAt_unrotate (t : Vector Word64 16) (p k : BitVec 4) : wordAt (unrotate t p) k = wordAt t (k - p) := by
  simp only [wordAt, unrotate, Vector.getElem_ofFn, BitVec.ofNat_toNat, BitVec.setWidth_eq]

theorem wordAt_putWord (v : Vector Word64 16) (i j : BitVec 4) (w : Word64) :
    wordAt (putWord v i w) j = if i = j then w else wordAt v j := by
  simp only [wordAt, putWord, Vector.getElem_set, BitVec.toNat_inj]

theorem words_ext {v v' : Vector Word64 16} (h : ∀ j : BitVec 4, wordAt v j = wordAt v' j) : v = v' := by
  apply Vector.ext
  intro i hi
  have := h (BitVec.ofNat 4 i)
  simpa [wordAt, Nat.mod_eq_of_lt hi] using this

/-- The view taken from the cursor and written back from it is the array again (R94). -/
theorem unrotate_rotatedView (u : Xs1024Regs) : unrotate (rotatedView u) u.p = u.s := by
  apply words_ext
  intro j
  rw [wordAt_unrotate, wordAt_rotatedView, BitVec.sub_add_cancel]

/-- Writing an array back from the cursor and viewing it from there gives the array (R94). -/
theorem rotatedView_unrotate (t : Vector Word64 16) (p : BitVec 4) : rotatedView ⟨unrotate t p, p⟩ = t := by
  apply words_ext
  intro j
  rw [wordAt_rotatedView, wordAt_unrotate, BitVec.add_sub_cancel]

end Sys2Proof.Machine
end

