-- ==== Sys2Proof/Laws/Exec.lean ====
section
/-! SUPPORT. What an instruction can do, said once: it answers the first error that applies, or it has its effect and answers
`OK`. Later proofs take `exec_cases` and the lemmas about `effectOf` instead of unfolding `exec`. -/

namespace Sys2Proof.Machine

open Sys2Proof

/-- The state before the answer and the data words of an instruction that has passed its checks. -/
def effectOf : Instr → State → State × List Word64
  | .nextSm64, s => ((nextUnit .sm64 s).2, [(nextUnit .sm64 s).1])
  | .nextXs128, s => ((nextUnit .xs128 s).2, [(nextUnit .xs128 s).1])
  | .nextXo128, s => ((nextUnit .xo128 s).2, [(nextUnit .xo128 s).1])
  | .nextXs1024, s => ((nextUnit .xs1024 s).2, [(nextUnit .xs1024 s).1])
  | .jumpXs128, s => ({ s with xs128 := jumpXs128 s.xs128 }, [])
  | .jumpXo128, s => ({ s with xo128 := jumpXo128 s.xo128 }, [])
  | .jumpXs1024, s => ({ s with xs1024 := jumpXs1024 s.xs1024 }, [])
  | .ldsSm64, s => (construct .sm64 s.payload s, [])
  | .ldsXs128, s => (construct .xs128 s.payload s, [])
  | .ldsXo128, s => (construct .xo128 s.payload s, [])
  | .ldsXs1024, s => (construct .xs1024 s.payload s, [])
  | .rdsSm64, s => (s, readOut .sm64 s)
  | .rdsXs128, s => (s, readOut .xs128 s)
  | .rdsXo128, s => (s, readOut .xo128 s)
  | .rdsXs1024, s => (s, readOut .xs1024 s)
  | .seedSm64 u, s => (construct .sm64 (draw u 1 s).1 (draw u 1 s).2, [])
  | .seedXs128 u, s => (construct .xs128 (draw u 2 s).1 (draw u 2 s).2, [])
  | .seedXo128 u, s => (construct .xo128 (draw u 2 s).1 (draw u 2 s).2, [])
  | .seedXs1024 u, s => (construct .xs1024 (draw u 16 s).1 (draw u 16 s).2, [])
  | .genSm64 n, s => ((draw .sm64 n s).2, (draw .sm64 n s).1)
  | .genXs128 n, s => ((draw .xs128 n s).2, (draw .xs128 n s).1)
  | .genXo128 n, s => ((draw .xo128 n s).2, (draw .xo128 n s).1)
  | .genXs1024 n, s => ((draw .xs1024 n s).2, (draw .xs1024 n s).1)
  | .sizeSm64, s => (s, [1])
  | .sizeXs128, s => (s, [2])
  | .sizeXo128, s => (s, [2])
  | .sizeXs1024, s => (s, [16])

/-- Every instruction is its two checks around its effect. -/
theorem exec_eq_checks (i : Instr) (s : State) :
    exec i s = whenPayload (payloadWords i) s
      (match neededUnit i with
        | none => respond .ok (effectOf i s).2 (effectOf i s).1
        | some u => whenConstructed u s (respond .ok (effectOf i s).2 (effectOf i s).1)) := by
  cases i <;> rfl

/-- The one inversion of `exec`: `ERR_LENGTH`, else `ERR_UNINIT`, else the effect and `OK`. -/
theorem exec_cases (i : Instr) (s : State) :
    (s.payload.length ≠ payloadWords i ∧ exec i s = .next (s.answer .errLength [])) ∨
    (s.payload.length = payloadWords i ∧ (∃ u, neededUnit i = some u ∧ s.valid.get u = false) ∧
      exec i s = .next (s.answer .errUninit [])) ∨
    (s.payload.length = payloadWords i ∧ (∀ u, neededUnit i = some u → s.valid.get u = true) ∧
      exec i s = .next ((effectOf i s).1.answer .ok (effectOf i s).2)) := by
  rw [exec_eq_checks]
  by_cases hp : s.payload.length = payloadWords i
  · rw [whenPayload_ok hp]
    cases hn : neededUnit i with
    | none => exact .inr (.inr ⟨hp, fun u hu => by simp at hu, rfl⟩)
    | some u =>
      cases hv : s.valid.get u
      · exact .inr (.inl ⟨hp, ⟨u, rfl, hv⟩, whenConstructed_refused hv⟩)
      · refine .inr (.inr ⟨hp, fun v hv' => ?_, whenConstructed_ok hv⟩)
        cases hv'
        exact hv
  · exact .inl ⟨hp, whenPayload_wrong hp⟩

section
variable (i : Instr) (s : State)

@[simp] theorem effectOf_input : (effectOf i s).1.input = s.input := by cases i <;> simp [effectOf]
@[simp] theorem effectOf_responses : (effectOf i s).1.responses = s.responses := by cases i <;> simp [effectOf]
@[simp] theorem effectOf_free : (effectOf i s).1.free = s.free := by cases i <;> simp [effectOf]

/-- The data words are as many as the opcode map says (R41). -/
theorem effectOf_length : (effectOf i s).2.length = responseWords i := by
  cases i <;> simp [effectOf, readOut, responseWords]

end

/-- A step on a command: an illegal word is answered, a legal one runs its instruction on the accepted command. -/
theorem step_command {s : State} {c : Command} {rest : List Input} (h : s.input = .command c :: rest) :
    step s = match decode c.word with
      | .ok i => exec i (acceptCommand c s)
      | .error _ => .next ((acceptCommand c s).answer .errIllegal []) := by
  unfold step
  rw [h]
  rfl

theorem step_idle {s : State} (h : s.input = []) : step s = .next s := by simp [step, h]

theorem step_reset {s : State} {rest : List Input} (h : s.input = .reset :: rest) :
    step s = .next (resetBlock (dropInput s)) := by simp [step, h]

theorem step_resetDuring {s : State} {c : Command} {rest : List Input} (h : s.input = .resetDuring c :: rest) :
    step s = .next (resetBlock (dropInput s)) := by simp [step, h]

/-! ## Runs -/

/-- A run whose first step answers a next state goes on from there. -/
theorem run_succ {M : Host.Core} {k : Nat} {s t : M.State} (h : M.step s = .next t) : M.run (k + 1) s = M.run k t := by
  simp only [Host.Core.run, h]

/-- The same for this machine, in its own names. -/
theorem run_step {k : Nat} {s t : State} (h : step s = .next t) :
    Host.Core.run Sys2Proof.core (k + 1) s = Host.Core.run Sys2Proof.core k t :=
  run_succ (M := Sys2Proof.core) h

end Sys2Proof.Machine
end

