-- ==== Sys2Proof/Laws/PerInstr.lean ====
section
/-! SUPPORT. A law for every instruction as syntax: its word stands in its row of the opcode table (R43). -/

namespace Sys2Proof.Laws.EncodeMatchesRow

open Sys2Proof

/-- The word of the instruction, masked by the mask of its row, is the match of its row, whatever the free fields hold. -/
def Statement (i : Instr) : Prop := encode i &&& (tableRow i).2 = (tableRow i).1

/-- Masking off the count leaves the word of count 0. -/
theorem genWord_masked (t : UnitId) (n : Nat) : genWord t n &&& 0xFFFF0000 = plainWord .gen t := by
  unfold genWord plainWord
  generalize BitVec.ofNat 16 n = m
  ext i hi
  have mask : ∀ i < 32, (0xFFFF0000 : CommandWord).getLsbD i = decide (16 ≤ i) := by decide
  rw [BitVec.getElem_and, ← BitVec.getLsbD_eq_getElem (x := (0xFFFF0000 : CommandWord)), mask i hi]
  simp [packFields]
  grind

theorem nextSm64 : Statement .nextSm64 := rfl
theorem nextXs128 : Statement .nextXs128 := rfl
theorem nextXo128 : Statement .nextXo128 := rfl
theorem nextXs1024 : Statement .nextXs1024 := rfl
theorem jumpXs128 : Statement .jumpXs128 := rfl
theorem jumpXo128 : Statement .jumpXo128 := rfl
theorem jumpXs1024 : Statement .jumpXs1024 := rfl
theorem ldsSm64 : Statement .ldsSm64 := rfl
theorem ldsXs128 : Statement .ldsXs128 := rfl
theorem ldsXo128 : Statement .ldsXo128 := rfl
theorem ldsXs1024 : Statement .ldsXs1024 := rfl
theorem rdsSm64 : Statement .rdsSm64 := rfl
theorem rdsXs128 : Statement .rdsXs128 := rfl
theorem rdsXo128 : Statement .rdsXo128 := rfl
theorem rdsXs1024 : Statement .rdsXs1024 := rfl
theorem seedSm64 (source : UnitId) : Statement (.seedSm64 source) := by cases source <;> rfl
theorem seedXs128 (source : UnitId) : Statement (.seedXs128 source) := by cases source <;> rfl
theorem seedXo128 (source : UnitId) : Statement (.seedXo128 source) := by cases source <;> rfl
theorem seedXs1024 (source : UnitId) : Statement (.seedXs1024 source) := by cases source <;> rfl
theorem genSm64 (count : Nat) : Statement (.genSm64 count) := genWord_masked .sm64 count
theorem genXs128 (count : Nat) : Statement (.genXs128 count) := genWord_masked .xs128 count
theorem genXo128 (count : Nat) : Statement (.genXo128 count) := genWord_masked .xo128 count
theorem genXs1024 (count : Nat) : Statement (.genXs1024 count) := genWord_masked .xs1024 count
theorem sizeSm64 : Statement .sizeSm64 := rfl
theorem sizeXs128 : Statement .sizeXs128 := rfl
theorem sizeXo128 : Statement .sizeXo128 := rfl
theorem sizeXs1024 : Statement .sizeXs1024 := rfl

end Sys2Proof.Laws.EncodeMatchesRow
end

