-- ==== Sys2Proof/Tests/Slice0.lean ====
section
/-! SUPPORT. The model's own tests. Expected results come from 95_test_vectors.md (V<n>) or are worked by hand from a rule. The
witnesses at the end show, for every statement with hypotheses, a concrete state and operands that meet them. -/

namespace Sys2Proof.Tests

open Sys2Proof Sys2Proof.Machine Sys2Proof.Claims

-- The theorems below are checked one after another: each waits for the kernel, and a waiting theorem holds a thread.
set_option Elab.async false

/-! ## WellFormed refuses a count that does not fit its field -/

theorem test_wellFormed_refuses_sm64 : (Instr.genSm64 65536).wellFormed = false := by decide
theorem test_wellFormed_refuses_xs128 : (Instr.genXs128 65536).wellFormed = false := by decide
theorem test_wellFormed_refuses_xo128 : (Instr.genXo128 65536).wellFormed = false := by decide
theorem test_wellFormed_refuses_xs1024 : (Instr.genXs1024 65536).wellFormed = false := by decide
theorem test_wellFormed_admits : (Instr.genXs1024 65535).wellFormed = true := by decide

/-! ## Decoding: the words of V60, written out -/

theorem test_decode_next :
    decode 0x10000000 = .ok .nextSm64 ∧ decode 0x14000000 = .ok .nextXs128 ∧
    decode 0x18000000 = .ok .nextXo128 ∧ decode 0x1C000000 = .ok .nextXs1024 := by decide +kernel

theorem test_decode_jump :
    decode 0x24000000 = .ok .jumpXs128 ∧ decode 0x28000000 = .ok .jumpXo128 ∧
    decode 0x2C000000 = .ok .jumpXs1024 ∧ decode 0x20000000 = .error .jumpOfSm64 := by decide +kernel

theorem test_decode_lds :
    decode 0x30000000 = .ok .ldsSm64 ∧ decode 0x34000000 = .ok .ldsXs128 ∧
    decode 0x38000000 = .ok .ldsXo128 ∧ decode 0x3C000000 = .ok .ldsXs1024 := by decide +kernel

theorem test_decode_rds :
    decode 0x40000000 = .ok .rdsSm64 ∧ decode 0x44000000 = .ok .rdsXs128 ∧
    decode 0x48000000 = .ok .rdsXo128 ∧ decode 0x4C000000 = .ok .rdsXs1024 := by decide +kernel

theorem test_decode_seed_sm64 :
    decode 0x50000000 = .ok (.seedSm64 .sm64) ∧ decode 0x51000000 = .ok (.seedSm64 .xs128) ∧
    decode 0x52000000 = .ok (.seedSm64 .xo128) ∧ decode 0x53000000 = .ok (.seedSm64 .xs1024) := by decide +kernel

theorem test_decode_seed_xs128 :
    decode 0x54000000 = .ok (.seedXs128 .sm64) ∧ decode 0x55000000 = .ok (.seedXs128 .xs128) ∧
    decode 0x56000000 = .ok (.seedXs128 .xo128) ∧ decode 0x57000000 = .ok (.seedXs128 .xs1024) := by decide +kernel

theorem test_decode_seed_xo128 :
    decode 0x58000000 = .ok (.seedXo128 .sm64) ∧ decode 0x59000000 = .ok (.seedXo128 .xs128) ∧
    decode 0x5A000000 = .ok (.seedXo128 .xo128) ∧ decode 0x5B000000 = .ok (.seedXo128 .xs1024) := by decide +kernel

theorem test_decode_seed_xs1024 :
    decode 0x5C000000 = .ok (.seedXs1024 .sm64) ∧ decode 0x5D000000 = .ok (.seedXs1024 .xs128) ∧
    decode 0x5E000000 = .ok (.seedXs1024 .xo128) ∧ decode 0x5F000000 = .ok (.seedXs1024 .xs1024) := by decide +kernel

theorem test_decode_gen :
    decode 0x60000010 = .ok (.genSm64 16) ∧ decode 0x6000FFFF = .ok (.genSm64 65535) ∧
    decode 0x64000000 = .ok (.genXs128 0) ∧ decode 0x68000003 = .ok (.genXo128 3) ∧
    decode 0x6C000011 = .ok (.genXs1024 17) := by decide +kernel

theorem test_decode_size :
    decode 0x70000000 = .ok .sizeSm64 ∧ decode 0x74000000 = .ok .sizeXs128 ∧
    decode 0x78000000 = .ok .sizeXo128 ∧ decode 0x7C000000 = .ok .sizeXs1024 := by decide +kernel

/-- The reserved words of V61. -/
theorem test_decode_reserved :
    decode 0x00000000 = .error .reservedOperation ∧ decode 0x0C000000 = .error .reservedOperation ∧
    decode 0x80000000 = .error .reservedOperation ∧ decode 0xFFFFFFFF = .error .reservedOperation ∧
    decode 0x14000001 = .error .countWithoutGen ∧ decode 0x15000000 = .error .sourceWithoutSeed ∧
    decode 0x14010000 = .error .reservedZ ∧ decode 0x50800000 = .error .reservedZ ∧
    decode 0x54000001 = .error .countWithoutGen ∧ decode 0x60010000 = .error .reservedZ ∧
    decode 0x61000000 = .error .sourceWithoutSeed := by decide +kernel

theorem test_encode :
    encode .nextXs128 = 0x14000000 ∧ encode .jumpXs1024 = 0x2C000000 ∧ encode .ldsSm64 = 0x30000000 ∧
    encode .rdsXo128 = 0x48000000 ∧ encode (.seedXs1024 .xo128) = 0x5E000000 ∧
    encode (.genXs1024 17) = 0x6C000011 ∧ encode .sizeXs128 = 0x74000000 := by decide +kernel

theorem test_decodeTableWord :
    decodeTableWord 32 0x5E000000 = some (.seedXs1024 .xo128) ∧ decodeTableWord 32 0x20000000 = none ∧
    decodeTableWord 40 0x10000000 = none := by decide +kernel

/-! ## Small machines -/

/-- Nothing constructed, every word 0. -/
def blank : State where
  sm := ⟨0⟩
  xs128 := ⟨0, 0⟩
  xo128 := ⟨0, 0⟩
  xs1024 := ⟨Vector.replicate 16 0, 0⟩
  valid := ⟨false, false, false, false⟩
  input := []
  payload := []
  responses := []
  free := 0

/-- Every unit constructed, every word 0. -/
def ready : State := { blank with valid := ⟨true, true, true, true⟩ }

/-- `s` with one command presented. -/
def given (w : CommandWord) (p : List Word64) (s : State) : State := { s with input := [.command ⟨w, p⟩] }

/-- What one step on one command leaves, seen through `f`. -/
def after {α : Type} (w : CommandWord) (p : List Word64) (s : State) (f : State → α) : Option α :=
  match step (given w p s) with
  | .next t => some (f t)
  | .fault _ => none
  | .refused _ => none

/-- The answer and one unit's words. -/
def answerAnd (u : UnitId) (t : State) : List Response × List Word64 := (t.responses, readOut u t)

/-- The array whose word `i` is `i + 1` (V32). -/
def counting : Vector Word64 16 := Vector.ofFn fun i : Fin 16 => BitVec.ofNat 64 (i.val + 1)

/-- The array with one word set and the others 0. -/
def oneWord (i : BitVec 4) (w : Word64) : Vector Word64 16 := putWord (Vector.replicate 16 0) i w

/-! ## NEXT -/

/-- V1 call 1. -/
theorem test_next_sm64 :
    after 0x10000000 [] ready (answerAnd .sm64) =
      some ([⟨.ok, [0xE220A8397B1DCDAF]⟩], [0x9E3779B97F4A7C15]) := by decide +kernel

/-- V3 call 1: the add wraps. -/
theorem test_next_sm64_wraps :
    after 0x10000000 [] { ready with sm := ⟨0xFFFFFFFFFFFFFFFF⟩ } (answerAnd .sm64) =
      some ([⟨.ok, [0xE4D971771B652C20]⟩], [0x9E3779B97F4A7C14]) := by decide +kernel

/-- V10 call 2. -/
theorem test_next_xs128 :
    after 0x14000000 [] { ready with xs128 := ⟨0x2, 0x800023⟩ } (answerAnd .xs128) =
      some ([⟨.ok, [0x800025]⟩], [0x800023, 0x1840060]) := by decide +kernel

/-- V11 call 3. -/
theorem test_next_xs128_wraps :
    after 0x14000000 [] { ready with xs128 := ⟨0xF8000000007FFFE0, 0xFFC000000003FFFF⟩ } (answerAnd .xs128) =
      some ([⟨.ok, [0xF7C000000083FFDF]⟩], [0xFFC000000003FFFF, 0x003E01FFFF83E3FF]) := by decide +kernel

/-- V20 call 4. -/
theorem test_next_xo128 :
    after 0x18000000 [] { ready with xo128 := ⟨0x2080C82020C0C363, 0x8000363010040003⟩ } (answerAnd .xo128) =
      some ([⟨.ok, [0xA080FE5030C4C366]⟩], [0x2E94B245100CA301, 0x0C4C360A080FE103]) := by decide +kernel

/-- V21 call 1: equal words. -/
theorem test_next_xo128_wraps :
    after 0x18000000 [] { ready with xo128 := ⟨0xFFFFFFFFFFFFFFFF, 0xFFFFFFFFFFFFFFFF⟩ } (answerAnd .xo128) =
      some ([⟨.ok, [0xFFFFFFFFFFFFFFFE]⟩], [0xFFFFFFFFFFFFFFFF, 0x0]) := by decide +kernel

/-- V34 call 1. -/
theorem test_next_xs1024 :
    after 0x1C000000 [] { ready with xs1024 := ⟨putWord (oneWord 0 0xE220A8397B1DCDAF) 1 0x6E789E6AA1B965F4, 0⟩ }
      (fun t => (t.responses, wordAt t.xs1024.s 0, wordAt t.xs1024.s 1, wordAt t.xs1024.s 2, t.xs1024.p)) =
      some ([⟨.ok, [0x281F841BF3783C3A]⟩], 0xE220A8397B1DCDAF, 0xDC83502FC0323F92, 0, 1) := by decide +kernel

/-- V32: the cursor wraps from 15 to 0. -/
theorem test_next_xs1024_wraps :
    after 0x1C000000 [] { ready with xs1024 := ⟨putWord (oneWord 15 1) 0 2, 15⟩ }
      (fun t => (t.responses, wordAt t.xs1024.s 0, wordAt t.xs1024.s 15, t.xs1024.p)) =
      some ([⟨.ok, [0xC0562E31B467F91F]⟩], 0x0000000100200003, 1, 0) := by decide +kernel

/-! ## JUMP -/

/-- V14. -/
theorem test_jump_xs128 :
    after 0x24000000 [] { ready with xs128 := ⟨1, 2⟩ } (answerAnd .xs128) =
      some ([⟨.ok, []⟩], [0xDF64846A19FBE8EA, 0x57EB0217359B17BF]) := by decide +kernel

/-- V15, the third row. -/
theorem test_jump_xs128_seeded :
    after 0x24000000 [] { ready with xs128 := ⟨0xE220A8397B1DCDAF, 0x6E789E6AA1B965F4⟩ } (answerAnd .xs128) =
      some ([⟨.ok, []⟩], [0x5A54C3EF77139483, 0x85A59EEC80889C9B]) := by decide +kernel

/-- V24. -/
theorem test_jump_xo128 :
    after 0x28000000 [] { ready with xo128 := ⟨1, 2⟩ } (answerAnd .xo128) =
      some ([⟨.ok, []⟩], [0x814146B67B285F30, 0x7F6FF236623B4E25]) := by decide +kernel

/-- V25, the first row. -/
theorem test_jump_xo128_ones :
    after 0x28000000 [] { ready with xo128 := ⟨0xFFFFFFFFFFFFFFFF, 0xFFFFFFFFFFFFFFFF⟩ } (answerAnd .xo128) =
      some ([⟨.ok, []⟩], [0x5018527E252234EF, 0x5AD33C8C576A9786]) := by decide +kernel

/-- R94 on the three-bit polynomial 110, from the cursor 15: the accumulator takes the view of the start and the view after one
step, each from its own cursor (the step is V32's, so the new word is at place 0 of the second view and the old 1 at place 15). -/
theorem test_jump_xs1024_loop :
    let r := jumpLoop xorWords rotatedView advanceXs1024 [true, true, false] (Vector.replicate 16 0)
      ⟨putWord (oneWord 15 1) 0 2, 15⟩
    (wordAt r.1 0, wordAt r.1 1, wordAt r.1 2, wordAt r.1 15, r.2.p) = (0x0000000100200002, 2, 0, 1, 2) := by
  decide +kernel

/-- V36, word 3, seen from the cursor 5, which stays (R96); the step answers nothing. -/
theorem test_jump_xs1024 :
    after 0x2C000000 [] { ready with xs1024 := ⟨oneWord 5 1, 5⟩ }
      (fun t => (t.responses, t.xs1024.p, wordAt t.xs1024.s 8)) =
      some ([⟨.ok, []⟩], 5, 0x6F6F5922A84C949F) := by decide +kernel

/-! ## LDS, RDS, SIZE -/

theorem test_lds_sm64 :
    after 0x30000000 [0x2A] blank (fun t => (answerAnd .sm64 t, t.valid)) =
      some (([⟨.ok, []⟩], [0x2A]), ⟨true, false, false, false⟩) := by decide +kernel

theorem test_lds_xs128 :
    after 0x34000000 [1, 2] blank (fun t => (answerAnd .xs128 t, t.valid)) =
      some (([⟨.ok, []⟩], [1, 2]), ⟨false, true, false, false⟩) := by decide +kernel

theorem test_lds_xo128 :
    after 0x38000000 [1, 2] blank (fun t => (answerAnd .xo128 t, t.valid)) =
      some (([⟨.ok, []⟩], [1, 2]), ⟨false, false, true, false⟩) := by decide +kernel

/-- R91: the cursor is set to 0 from any value. -/
theorem test_lds_xs1024 :
    after 0x3C000000 counting.toList { blank with xs1024 := ⟨Vector.replicate 16 7, 5⟩ }
      (fun t => (answerAnd .xs1024 t, t.valid)) =
      some (([⟨.ok, []⟩], counting.toList ++ [0]), ⟨false, false, false, true⟩) := by decide +kernel

/-- The lengths of V61. -/
theorem test_lds_length :
    after 0x34000000 [1, 2, 3] blank id = some { blank with responses := [⟨.errLength, []⟩] } ∧
    after 0x3C000000 (List.replicate 17 1) blank id = some { blank with responses := [⟨.errLength, []⟩] } ∧
    after 0x3C000000 (List.replicate 15 1) blank id = some { blank with responses := [⟨.errLength, []⟩] } := by
  decide +kernel

/-- V7. -/
theorem test_rds_sm64 :
    after 0x40000000 [] { ready with sm := ⟨0x0123456789ABCDEF⟩ } State.responses =
      some [⟨.ok, [0x0123456789ABCDEF]⟩] := by decide +kernel

/-- V18. -/
theorem test_rds_xs128 :
    after 0x44000000 [] { ready with xs128 := ⟨2, 0x800023⟩ } State.responses =
      some [⟨.ok, [2, 0x800023]⟩] := by decide +kernel

theorem test_rds_xo128 :
    after 0x48000000 [] { ready with xo128 := ⟨3, 4⟩ } State.responses = some [⟨.ok, [3, 4]⟩] := by decide +kernel

/-- V30: four ones, twelve zeros, the cursor 3; the words are in register order, not rotated (R23). -/
theorem test_rds_xs1024 :
    after 0x4C000000 []
      { ready with xs1024 := ⟨Vector.ofFn fun i : Fin 16 => if i.val < 4 then 1 else 0, 3⟩ } State.responses =
      some [⟨.ok, [1, 1, 1, 1, 0, 0, 0, 0, 0, 0, 0, 0, 0, 0, 0, 0, 3]⟩] := by decide +kernel

/-- V61: `SIZE` works when nothing is constructed. -/
theorem test_size :
    after 0x70000000 [] blank State.responses = some [⟨.ok, [1]⟩] ∧
    after 0x74000000 [] blank State.responses = some [⟨.ok, [2]⟩] ∧
    after 0x78000000 [] blank State.responses = some [⟨.ok, [2]⟩] ∧
    after 0x7C000000 [] blank State.responses = some [⟨.ok, [16]⟩] := by decide +kernel

/-! ## SEED -/

/-- V42: source and target are SM64. -/
theorem test_seed_sm64_self :
    after 0x50000000 [] ready (answerAnd .sm64) = some ([⟨.ok, []⟩], [0xE220A8397B1DCDAF]) := by decide +kernel

/-- V45. -/
theorem test_seed_sm64_from_xo128 :
    after 0x52000000 [] { ready with xo128 := ⟨1, 2⟩ } (fun t => (t.sm.x, t.xo128)) =
      some (3, ⟨0x008000000000C003, 0x0000003000000000⟩) := by decide +kernel

/-- V41: the target need not be constructed. -/
theorem test_seed_xs128_from_sm64 :
    after 0x54000000 [] { blank with valid := ⟨true, false, false, false⟩ } (fun t => (t.xs128, t.sm.x, t.valid)) =
      some (⟨0xE220A8397B1DCDAF, 0x6E789E6AA1B965F4⟩, 0x3C6EF372FE94F82A, ⟨true, true, false, false⟩) := by
  decide +kernel

/-- V44: source and target are XS128; both draws come before the write. -/
theorem test_seed_xs128_self :
    after 0x55000000 [] { ready with xs128 := ⟨1, 2⟩ } (answerAnd .xs128) =
      some ([⟨.ok, []⟩], [3, 0x800025]) := by decide +kernel

/-- V43. -/
theorem test_seed_xo128_from_xs128 :
    after 0x59000000 [] { ready with xs128 := ⟨1, 2⟩ } (fun t => (t.xo128, t.xs128)) =
      some (⟨3, 0x800025⟩, ⟨0x800023, 0x1840060⟩) := by decide +kernel

/-- V40 (the words of V6 at both ends), from a cursor that is not 0. -/
theorem test_seed_xs1024_from_sm64 :
    after 0x5C000000 [] { ready with xs1024 := ⟨Vector.replicate 16 0, 5⟩ }
      (fun t => (wordAt t.xs1024.s 0, wordAt t.xs1024.s 15, t.xs1024.p, t.sm.x)) =
      some (0xE220A8397B1DCDAF, 0x84BB3F97971D80AB, 0, 0xE3779B97F4A7C150) := by decide +kernel

/-- V49: from an all-zero source. -/
theorem test_seed_xs1024_from_zeros :
    after 0x5D000000 [] ready (answerAnd .xs1024) = some ([⟨.ok, []⟩], List.replicate 17 0) := by decide +kernel

/-! ## GEN -/

/-- V1 and V51. -/
theorem test_gen_sm64 :
    after 0x60000003 [] ready (answerAnd .sm64) =
      some ([⟨.ok, [0xE220A8397B1DCDAF, 0x6E789E6AA1B965F4, 0x06C45D188009454F]⟩], [0xDAA66D2C7DDF743F]) := by
  decide +kernel

/-- V50: a count of 0. -/
theorem test_gen_xs128_none :
    after 0x64000000 [] { ready with xs128 := ⟨1, 2⟩ } (answerAnd .xs128) = some ([⟨.ok, []⟩], [1, 2]) := by
  decide +kernel

/-- V10 and V51. -/
theorem test_gen_xs128 :
    after 0x64000005 [] { ready with xs128 := ⟨1, 2⟩ } (answerAnd .xs128) =
      some ([⟨.ok, [3, 0x800025, 0x2040083, 0x00004000020C2460, 0x0000C00002108D21]⟩],
        [0x0000800001886921, 0x0000801200088E4A]) := by decide +kernel

/-- Program 2, line 6. -/
theorem test_gen_xo128 :
    after 0x68000003 [] { ready with xo128 := ⟨0x864FE48AA36F16BD, 0xA7BD4E09B6DC5B3B⟩ } (answerAnd .xo128) =
      some ([⟨.ok, [0x2E0D32945A4B71F8, 0x30C6207FA2AE223E, 0xB6EDE3BAD1401B7A]⟩],
        [0x8135F749715367F1, 0xCBE147826CD9C390]) := by decide +kernel

/-- V51 from the start of V30. -/
theorem test_gen_xs1024 :
    after 0x6C000003 [] { ready with xs1024 := ⟨oneWord 0 1, 0⟩ } (fun t => (t.responses, t.xs1024.p)) =
      some ([⟨.ok, List.replicate 3 0x106689D45497FDB5⟩], 3) := by decide +kernel

/-! ## Errors, reset, the command port -/

/-- V61: the three errors and their order; nothing changes. -/
theorem test_errors :
    after 0x20000000 [9] blank id = some { blank with responses := [⟨.errIllegal, []⟩] } ∧
    after 0x14000000 [5] blank id = some { blank with responses := [⟨.errLength, []⟩] } ∧
    after 0x6400FFFF [] blank id = some { blank with responses := [⟨.errUninit, []⟩] } ∧
    after 0x51000000 [] { blank with valid := ⟨true, false, false, false⟩ } State.responses =
      some [⟨.errUninit, []⟩] := by decide +kernel

theorem test_status_codes :
    Status.ok.code = 0 ∧ Status.errIllegal.code = 1 ∧ Status.errLength.code = 2 ∧ Status.errUninit.code = 3 := by decide

/-- R140 and R141: the command in progress gets no response. -/
theorem test_reset_abandons :
    (match step { ready with xs1024 := ⟨counting, 9⟩, input := [.resetDuring ⟨0x10000000, []⟩, .reset] } with
      | .next t => some (t.valid, t.xs1024.p, t.responses, t.input)
      | .fault _ => none
      | .refused _ => none) = some (⟨false, false, false, false⟩, 0, [], [.reset]) := by decide +kernel

/-- The first step after reset runs the word placed for it: an unconstructed unit is refused, `LDS` constructs one. -/
theorem test_first_step_after_reset :
    (match step (State.reset.withFetchWord 32 0x1C000000) with
      | .next t => some t.responses
      | .fault _ => none
      | .refused _ => none) = some [⟨.errUninit, []⟩] ∧
    (match step (State.reset.withFetchWord 32 0x3C000000) with
      | .next t => some (t.responses, t.valid.xs1024)
      | .fault _ => none
      | .refused _ => none) = some ([⟨.ok, []⟩], true) := by decide +kernel

/-! ## Assembly lines -/

/-- V48 and program 4. -/
theorem test_assemble :
    assemble (.seedsm .xo128 42) = some [⟨0x30000000, [0x2A]⟩, ⟨0x58000000, []⟩] ∧
    assemble (.gen .xs1024 17) = some [⟨0x6C000011, []⟩] ∧ assemble (.gen .sm64 65536) = none ∧
    assemble (.jump .sm64) = none := by decide +kernel

/-- R51, the written forms of V42 and V45. -/
theorem test_text :
    (AsmLine.seed .sm64 .xo128).text = "SEED SM64, XO128" ∧
    (AsmLine.lds .sm64 [0x2A]).text = "LDS SM64, 0x000000000000002A" := by decide +kernel

/-- R51: names or numbers for units, decimal or `0x` counts, comments. -/
theorem test_readLine :
    readLine "SEED  XS1024, XO128 ; from XO128" = some (.seed .xs1024 .xo128) ∧
    readLine "GEN 3, 0x11" = some (.gen .xs1024 17) ∧ readLine "GEN SM64, 65536" = none ∧
    readLine "LDS XS128, 0x0000000000000001, 0x2" = some (.lds .xs128 [1, 2]) ∧
    readLine "SEEDSM XO128, 42" = some (.seedsm .xo128 42) ∧ readLine "NEXT xs128" = none := by decide +kernel

/-- R51 and V7. -/
theorem test_response_text :
    (⟨.ok, [0x0123456789ABCDEF, 1]⟩ : Response).text = "-> OK [0x0123456789ABCDEF, 0x0000000000000001]" ∧
    (⟨.errUninit, []⟩ : Response).text = "-> ERR_UNINIT []" := by decide +kernel

/-! ## Witnesses: every hypothesis of a statement is met by a concrete state and operands

Named `witness_<statement>`. `ready` has every unit constructed, `blank` none, and `one w` presents one command word. -/

/-- The machine with every unit constructed and one command presented. -/
def one (w : CommandWord) : State := given w [] ready

theorem witness_DecodeOfEncode :
    (Instr.genXo128 65535).wellFormed = true ∧ (Instr.seedXs1024 .xs1024).wellFormed = true := by decide

theorem witness_EncodeOfDecode : decode 0x6C00FFFF = .ok (.genXs1024 65535) := by decide +kernel

theorem witness_MatchAndMaskSelect :
    decode 0x6800FFFF = .ok (.genXo128 65535) ∧
    (0x6800FFFF : CommandWord) &&& (tableRow (.genXo128 0)).2 = (tableRow (.genXo128 0)).1 ∧
    decode 0x5F000000 = .ok (seedOf .xs1024 .xs1024) ∧ decode 0x6000FFFF = .ok (genOf .sm64 65535) := by decide +kernel

/-- `JUMP SM64` matches no row. -/
theorem witness_MatchAndMaskSelect_none : ∀ i : Instr, (0x20000000 : CommandWord) &&& (tableRow i).2 ≠ (tableRow i).1 := by
  intro i
  cases i <;> simp only [tableRow] <;> decide

theorem witness_StepRunsDecodedInstruction :
    (one 0x2C000000).input = .command ⟨0x2C000000, []⟩ :: [] ∧ decode 0x2C000000 = .ok .jumpXs1024 := by decide +kernel

theorem witness_IdleBlockHoldsItsState : State.reset.input = [] := rfl

theorem witness_ResetInputRule :
    { ready with input := [.reset] }.input = .reset :: [] ∧
    ∃ c, { ready with input := [.resetDuring ⟨0x10000000, []⟩] }.input = .resetDuring c :: [] := ⟨rfl, _, rfl⟩

theorem witness_CommandListRunsInOrder :
    ({ ready with input := [.command ⟨0x10000000, []⟩, .command ⟨0x20000000, [1]⟩] }).input =
      [(⟨0x10000000, []⟩ : Command), ⟨0x20000000, [1]⟩].map Input.command ∧
    ([⟨0x10000000, []⟩, ⟨0x20000000, [1]⟩] : List Command)[1]? = some ⟨0x20000000, [1]⟩ := ⟨rfl, rfl⟩

theorem witness_IllegalWordsAreRefused :
    (one 0x00000000).input = .command ⟨0x00000000, []⟩ :: [] := rfl

/-- Each condition of R121, at the ends of its range. -/
theorem witness_IllegalWordsAreRefused_illegal :
    IllegalWord 0x0FFFFFFF ∧ IllegalWord 0x80000000 ∧ IllegalWord 0xF0000000 ∧ IllegalWord 0x50010000 ∧
    IllegalWord 0x60FF0000 ∧ IllegalWord 0x41000000 ∧ IllegalWord 0x63000000 ∧ IllegalWord 0x5F000001 ∧
    IllegalWord 0x7000FFFF ∧ IllegalWord 0x20000000 := by
  and_intros <;> (unfold IllegalWord; decide)

/-- Legal words, with every free field at its end. -/
theorem witness_IllegalWordsAreRefused_legal :
    ¬ IllegalWord 0x24000000 ∧ ¬ IllegalWord 0x5F000000 ∧ ¬ IllegalWord 0x6C00FFFF := by
  and_intros <;> (unfold IllegalWord; decide)

/-- A payload one too short and one too long for each unit, and an instruction that is no `LDS` with a payload. -/
theorem witness_WrongPayloadLengthIsRefused :
    ({ ready with payload := [] }).payload.length ≠ 1 ∧ ({ ready with payload := [1, 2] }).payload.length ≠ 1 ∧
    ({ ready with payload := [1] }).payload.length ≠ 2 ∧ ({ ready with payload := [1, 2, 3] }).payload.length ≠ 2 ∧
    ({ ready with payload := List.replicate 15 1 }).payload.length ≠ 16 ∧
    ({ ready with payload := List.replicate 17 1 }).payload.length ≠ 16 ∧
    (∀ u : UnitId, Instr.genXs128 0 ≠ ldsOf u) ∧ ({ ready with payload := [1] }).payload.length ≠ 0 := by
  refine ⟨by decide, by decide, by decide, by decide, by decide, by decide, fun u => ?_, by decide⟩
  cases u <;> simp [ldsOf]

theorem witness_UnconstructedUnitIsRefused :
    blank.payload = [] ∧ (∀ u : UnitId, blank.valid.get u = false) ∧ jumpOf .xs1024 = some .jumpXs1024 ∧
    ready.payload = [] ∧ (∀ u : UnitId, ready.valid.get u = true) := by
  refine ⟨rfl, fun u => ?_, rfl, rfl, fun u => ?_⟩ <;> cases u <;> rfl

theorem witness_UnconstructedUnitIsRefused_next :
    exec (sizeQueryOf .xo128) blank = .next (blank.answer .ok [2]) ∧
    exec (ldsOf .xo128) blank = .next (blank.answer .errLength []) := ⟨rfl, rfl⟩

theorem witness_StatusFollowsDecodingProcedure :
    (given 0x3C000000 counting.toList blank).input = .command ⟨0x3C000000, counting.toList⟩ :: [] := rfl

theorem witness_ErrorsChangeNothing :
    (given 0x14000000 [] blank).input = .command ⟨0x14000000, []⟩ :: [] ∧
    step (given 0x14000000 [] blank) = .next (blank.answer .errUninit []) ∧ Status.errUninit ≠ .ok := by
  refine ⟨rfl, ?_, by decide⟩
  rfl

theorem witness_EveryCheckedCommandCompletes :
    ({ blank with payload := counting.toList }).payload.length = payloadWords .ldsXs1024 ∧
    neededUnit .ldsXs1024 = none ∧ ready.payload.length = payloadWords (.seedSm64 .xs1024) ∧
    neededUnit (.seedSm64 .xs1024) = some .xs1024 ∧ ready.valid.get .xs1024 = true := by decide +kernel

theorem witness_QuiescenceIsKept :
    (one 0x20000000).Quiescent ∧ step (one 0x20000000) = .next (ready.answer .errIllegal []) := by
  refine ⟨⟨rfl, by simp [one, given, ready, blank]⟩, ?_⟩
  rfl

/-- A flag that is set already, and one that the command sets. -/
theorem witness_FlagsAreSetOnlyByConstruction :
    (given 0x30000000 [7] blank).input = .command ⟨0x30000000, [7]⟩ :: [] ∧
    step (given 0x30000000 [7] blank) =
      .next ({ blank with sm := ⟨7⟩, valid := ⟨true, false, false, false⟩ }.answer .ok []) ∧
    (given 0x30000000 [7] blank).valid.get .sm64 = false ∧
    ({ blank with sm := ⟨7⟩, valid := ⟨true, false, false, false⟩ }.answer .ok []).valid.get .sm64 = true ∧
    (given 0x30000000 [7] ready).valid.get .xs128 = true := by
  refine ⟨rfl, ?_, rfl, rfl, rfl⟩
  rfl

theorem witness_UnitsAreIndependent :
    exec (.seedXs128 .sm64) ready =
      .next ({ ready with sm := (draw .sm64 2 ready).2.sm,
                          xs128 := ⟨0xE220A8397B1DCDAF, 0x6E789E6AA1B965F4⟩ }.answer .ok []) ∧
    UnitId.xs1024 ∉ named (.seedXs128 .sm64) := by
  refine ⟨?_, by decide⟩
  rfl

/-- Two states that differ in an unconstructed unit's words, and a run of one step from the first. -/
theorem witness_UnspecifiedWordsAreNeverSeen :
    AgreeButUnspecified (given 0x70000000 [] blank) (given 0x70000000 [] { blank with sm := ⟨1⟩, free := 5 }) ∧
    Host.Core.run Sys2Proof.core 1 (given 0x70000000 [] blank) = .next (blank.answer .ok [1]) := by
  refine ⟨⟨rfl, rfl, rfl, rfl, fun u h => ?_⟩, ?_⟩
  · cases u <;> exact absurd h (by decide)
  · rfl

theorem witness_ResponsesAreNeverRead :
    step (given 0x7C000000 [] { ready with responses := [⟨.ok, [3]⟩] }) =
      .next ({ ready with responses := [⟨.ok, [3]⟩] }.answer .ok [16]) := by rfl

/-- Two states that agree on the source of a `SEED` and differ elsewhere. -/
theorem witness_AnswerDependsOnTheUnitRead :
    ready.payload = ({ ready with sm := ⟨9⟩ }).payload ∧ neededUnit (.seedSm64 .xs128) = some .xs128 ∧
    SameUnit .xs128 ready { ready with sm := ⟨9⟩ } ∧
    ready.valid.get .xs128 = ({ ready with sm := ⟨9⟩ }).valid.get .xs128 := ⟨rfl, rfl, rfl, rfl⟩

/-! ### The rules of the instructions -/

/-- The three clauses of `FollowsRule`, for every unit, and the two of `FollowsRuleAlways`. -/
theorem witness_clauses :
    ({ ready with payload := [1] }).payload.length ≠ 0 ∧
    blank.payload.length = 0 ∧ (∀ u : UnitId, blank.valid.get u = false) ∧
    ready.payload.length = 0 ∧ (∀ u : UnitId, ready.valid.get u = true) ∧
    ({ ready with payload := counting.toList }).payload.length = 16 := by
  refine ⟨by decide, rfl, fun u => ?_, rfl, fun u => ?_, by decide +kernel⟩ <;> cases u <;> rfl

/-- `word` has a reserved bit set beside the operation and unit of `word0`, and a state presents it. -/
def Reserved (word0 reserved word : CommandWord) : Prop :=
  word.extractLsb' 26 6 = word0.extractLsb' 26 6 ∧ word &&& reserved ≠ 0 ∧
  (given word [] blank).input = .command ⟨word, []⟩ :: []

theorem witness_SizeRule :
    Reserved 0x70000000 0x03FFFFFF 0x70000001 ∧ Reserved 0x74000000 0x03FFFFFF 0x74010000 ∧
    Reserved 0x78000000 0x03FFFFFF 0x79000000 ∧ Reserved 0x7C000000 0x03FFFFFF 0x7FFFFFFF := by
  refine ⟨⟨?_, ?_, rfl⟩, ⟨?_, ?_, rfl⟩, ⟨?_, ?_, rfl⟩, ⟨?_, ?_, rfl⟩⟩ <;> decide +kernel

theorem witness_LdsRule :
    Reserved 0x30000000 0x03FFFFFF 0x30000001 ∧ Reserved 0x34000000 0x03FFFFFF 0x34010000 ∧
    Reserved 0x38000000 0x03FFFFFF 0x39000000 ∧ Reserved 0x3C000000 0x03FFFFFF 0x3C000001 := by
  refine ⟨⟨?_, ?_, rfl⟩, ⟨?_, ?_, rfl⟩, ⟨?_, ?_, rfl⟩, ⟨?_, ?_, rfl⟩⟩ <;> decide +kernel

theorem witness_RdsRule :
    Reserved 0x40000000 0x03FFFFFF 0x40000001 ∧ Reserved 0x44000000 0x03FFFFFF 0x44010000 ∧
    Reserved 0x48000000 0x03FFFFFF 0x49000000 ∧ Reserved 0x4C000000 0x03FFFFFF 0x4F000000 := by
  refine ⟨⟨?_, ?_, rfl⟩, ⟨?_, ?_, rfl⟩, ⟨?_, ?_, rfl⟩, ⟨?_, ?_, rfl⟩⟩ <;> decide +kernel

theorem witness_NextSm64Rule : Reserved 0x10000000 0x03FFFFFF 0x13000000 := by
  refine ⟨?_, ?_, rfl⟩ <;> decide +kernel
theorem witness_NextXs128Rule : Reserved 0x14000000 0x03FFFFFF 0x14000001 := by
  refine ⟨?_, ?_, rfl⟩ <;> decide +kernel
theorem witness_NextXo128Rule : Reserved 0x18000000 0x03FFFFFF 0x18FF0000 := by
  refine ⟨?_, ?_, rfl⟩ <;> decide +kernel
theorem witness_NextXs1024Rule : Reserved 0x1C000000 0x03FFFFFF 0x1C008000 := by
  refine ⟨?_, ?_, rfl⟩ <;> decide +kernel
theorem witness_JumpXs128Loop : Reserved 0x24000000 0x03FFFFFF 0x24000001 := by
  refine ⟨?_, ?_, rfl⟩ <;> decide +kernel
theorem witness_JumpXo128Loop : Reserved 0x28000000 0x03FFFFFF 0x29000000 := by
  refine ⟨?_, ?_, rfl⟩ <;> decide +kernel
theorem witness_JumpXs1024Loop : Reserved 0x2C000000 0x03FFFFFF 0x2C800000 := by
  refine ⟨?_, ?_, rfl⟩ <;> decide +kernel

/-- With the source `XS1024`, whose number is 3. -/
theorem witness_SeedRule :
    Reserved 0x53000000 0x00FFFFFF 0x53000001 ∧ Reserved 0x57000000 0x00FFFFFF 0x54800000 ∧
    Reserved 0x5B000000 0x00FFFFFF 0x5800FFFF ∧ Reserved 0x5F000000 0x00FFFFFF 0x5F010000 := by
  refine ⟨⟨?_, ?_, rfl⟩, ⟨?_, ?_, rfl⟩, ⟨?_, ?_, rfl⟩, ⟨?_, ?_, rfl⟩⟩ <;> decide +kernel

/-- With the counts at both ends of the field. -/
theorem witness_GenRule :
    0 < 65536 ∧ 65535 < 65536 ∧
    Reserved (0x60000000 + BitVec.ofNat 32 65535) 0x03FF0000 0x61000000 ∧
    Reserved (0x64000000 + BitVec.ofNat 32 65535) 0x03FF0000 0x64010000 ∧
    Reserved (0x68000000 + BitVec.ofNat 32 0) 0x03FF0000 0x6880FFFF ∧
    Reserved (0x6C000000 + BitVec.ofNat 32 0) 0x03FF0000 0x6F000000 := by
  refine ⟨by decide, by decide, ⟨?_, ?_, rfl⟩, ⟨?_, ?_, rfl⟩, ⟨?_, ?_, rfl⟩, ⟨?_, ?_, rfl⟩⟩ <;> decide +kernel

/-! ### The properties -/

theorem witness_Sm64CountsByGamma : ready.payload = [] ∧ ready.valid.sm64 = true := ⟨rfl, rfl⟩

theorem witness_GenIsRepeatedNext : ready.payload = [] ∧ ready.valid.get .xs1024 = true := ⟨rfl, rfl⟩

theorem witness_GenSplits : ready.payload = [] ∧ ready.valid.get .xo128 = true := ⟨rfl, rfl⟩

theorem witness_TwoWordUnitsStayZero :
    ready.payload = [] ∧ ready.valid.xs128 = true ∧ ready.xs128 = ⟨0, 0⟩ ∧ ready.valid.xo128 = true ∧
    ready.xo128 = ⟨0, 0⟩ := ⟨rfl, rfl, rfl, rfl, rfl⟩

theorem witness_Xs1024StaysZero :
    ready.payload = [] ∧ ready.valid.xs1024 = true ∧ ready.xs1024.s = Vector.replicate 16 0 := ⟨rfl, rfl, rfl⟩

theorem witness_TwoWordNextIsInvertible :
    (⟨0, 1⟩ : Xs128Regs) ≠ ⟨0, 0⟩ ∧ (⟨1, 0⟩ : Xo128Regs) ≠ ⟨0, 0⟩ := by decide

theorem witness_Xs1024NextIsInvertible : (⟨counting, 3⟩ : Xs1024Regs).s ≠ Vector.replicate 16 0 := by decide +kernel

theorem witness_JumpXs128IsTwoToThe64Steps : ready.payload = [] ∧ ready.valid.xs128 = true := ⟨rfl, rfl⟩
theorem witness_JumpXo128IsTwoToThe64Steps : ready.payload = [] ∧ ready.valid.xo128 = true := ⟨rfl, rfl⟩
theorem witness_JumpXs1024IsTwoToThe512Steps : ready.payload = [] ∧ ready.valid.xs1024 = true := ⟨rfl, rfl⟩

theorem witness_JumpKeepsStatesApart :
    (⟨0, 1⟩ : Xs128Regs) ≠ ⟨1, 0⟩ ∧ (⟨0, 1⟩ : Xo128Regs) ≠ ⟨1, 0⟩ := by decide

theorem witness_CursorRule :
    ({ ready with payload := counting.toList }).payload.length = 16 ∧
    ready.payload = [] ∧ ready.valid.get .xs128 = true ∧ ready.valid.xs1024 = true ∧
    UnitId.xs128 ≠ .xs1024 ∧
    exec .sizeXs1024 ready = .next (ready.answer .ok [16]) ∧ UnitId.xs1024 ∉ named (.seedXs128 .sm64) := by
  refine ⟨by decide +kernel, rfl, rfl, rfl, by decide, rfl, by decide⟩

/-- V38 (a): the same view from the cursors 0 and 5. -/
theorem witness_OnlyTheRotatedViewMatters :
    (∀ j < 16, viewWord ⟨counting, 0⟩ j = viewWord ⟨unrotate counting 5, 5⟩ j) ∧
    (⟨counting, 0⟩ : Xs1024Regs) ≠ ⟨unrotate counting 5, 5⟩ := by decide +kernel

/-- A two-word unit, and `XS1024` with the cursor at 15. -/
theorem witness_SavedStateResumes :
    ready.payload = [] ∧ ready.valid.get .xo128 = true ∧
    exec (rdsOf .xo128) ready = .next (answered ready .ok [0, 0]) ∧ ({ blank with payload := [0, 0] }).payload = [0, 0] ∧
    exec (rdsOf .xs1024) { ready with xs1024 := ⟨counting, 15⟩ } =
      .next (answered { ready with xs1024 := ⟨counting, 15⟩ } .ok (counting.toList ++ [15])) ∧
    ({ blank with payload := (List.range 16).map fun j =>
        (counting.toList ++ [15]).getD ((j + ((counting.toList ++ [15]).getD 16 0).toNat) % 16) 0 }).payload =
      [16, 1, 2, 3, 4, 5, 6, 7, 8, 9, 10, 11, 12, 13, 14, 15] := by
  refine ⟨rfl, rfl, rfl, rfl, rfl, by decide +kernel⟩

theorem witness_SeedReadsOutAsGen :
    UnitId.xs1024 ≠ .xs128 ∧ ready.payload = [] ∧ ready.valid.get .xs128 = true := ⟨by decide, rfl, rfl⟩

theorem witness_SeedsmRule :
    ({ State.reset with input := (expandSeedsm .sm64 42).map Input.command }).input =
      (expandSeedsm .sm64 42).map Input.command ∧ UnitId.xs1024 ≠ .sm64 := ⟨rfl, by decide⟩

end Sys2Proof.Tests
end

/-! # The answer of an instruction depends on its payload and on the unit it reads (R3, R123) -/

namespace Sys2Proof.Machine

open Sys2Proof Sys2Proof.Claims

/-! ## The three ways an instruction ends, each from its condition -/

theorem exec_of_wrong_payload {i : Instr} {s : State} (h : s.payload.length ≠ payloadWords i) :
    exec i s = .next (s.answer .errLength []) := by
  rw [exec_eq_checks, whenPayload_wrong h]

theorem exec_of_unconstructed {i : Instr} {s : State} {u : UnitId} (hp : s.payload.length = payloadWords i)
    (hn : neededUnit i = some u) (hv : s.valid.get u = false) : exec i s = .next (s.answer .errUninit []) := by
  rw [exec_eq_checks, whenPayload_ok hp, hn]
  exact whenConstructed_refused hv

theorem exec_of_checked {i : Instr} {s : State} (hp : s.payload.length = payloadWords i)
    (hv : ∀ u, neededUnit i = some u → s.valid.get u = true) :
    exec i s = .next ((effectOf i s).1.answer .ok (effectOf i s).2) := by
  rw [exec_eq_checks, whenPayload_ok hp]
  cases hn : neededUnit i with
  | none => rfl
  | some u => exact whenConstructed_ok (hv u hn)

/-! ## States that agree on a unit give the same words from it -/

section
variable {u : UnitId} {s t : State}

theorem readOut_congr (h : SameUnit u s t) : readOut u s = readOut u t := by
  cases u <;> simp only [SameUnit] at h <;> simp only [readOut, h]

theorem nextUnit_output_congr (h : SameUnit u s t) : (nextUnit u s).1 = (nextUnit u t).1 := by
  cases u <;> simp only [SameUnit] at h <;> simp only [nextUnit, h]

/-- After a `Next` of the unit the two states still agree on it. -/
theorem sameUnit_nextUnit (h : SameUnit u s t) : SameUnit u (nextUnit u s).2 (nextUnit u t).2 := by
  cases u <;> simp only [SameUnit] at h <;> simp only [SameUnit, nextUnit, h]

theorem draw_words_congr (n : Nat) (h : SameUnit u s t) : (draw u n s).1 = (draw u n t).1 := by
  induction n generalizing s t with
  | zero => rfl
  | succ n ih => rw [draw_succ, draw_succ, nextUnit_output_congr h, ih (sameUnit_nextUnit h)]

end

/-- The data words of an effect come from the needed unit alone. -/
theorem effectOf_data_congr {i : Instr} {s t : State} (h : ∀ u, neededUnit i = some u → SameUnit u s t) :
    (effectOf i s).2 = (effectOf i t).2 := by
  cases i with
  | nextSm64 | nextXs128 | nextXo128 | nextXs1024 => exact congrArg (fun w => [w]) (nextUnit_output_congr (h _ rfl))
  | rdsSm64 | rdsXs128 | rdsXo128 | rdsXs1024 => exact readOut_congr (h _ rfl)
  | genSm64 n | genXs128 n | genXo128 n | genXs1024 n => exact draw_words_congr n (h _ rfl)
  | _ => rfl

/-- Settles O24: both states meet the same one of the three endings of `exec`, and where it is the effect, its data words
are the same. -/
theorem answerDependsOnTheUnitRead : Obligations.AnswerDependsOnTheUnitRead := by
  intro i s t hpay hunit
  have hdata : (effectOf i s).2 = (effectOf i t).2 := effectOf_data_congr fun u hu => (hunit u hu).1
  rcases exec_cases i s with ⟨hp, hs⟩ | ⟨hp, ⟨u, hn, hv⟩, hs⟩ | ⟨hp, hv, hs⟩
  · have ht := exec_of_wrong_payload (hpay ▸ hp)
    exact ⟨_, _, _, hs, ht, rfl, rfl⟩
  · have ht := exec_of_unconstructed (hpay ▸ hp) hn ((hunit u hn).2 ▸ hv)
    exact ⟨_, _, _, hs, ht, rfl, rfl⟩
  · have ht : exec i t = .next ((effectOf i t).1.answer .ok (effectOf i s).2) := by
      rw [hdata]
      exact exec_of_checked (hpay ▸ hp) fun u hn => (hunit u hn).2 ▸ hv u hn
    exact ⟨_, _, ⟨.ok, (effectOf i s).2⟩, hs, ht, by simp, by simp⟩

end Sys2Proof.Machine

/-! # The instructions by operation, and what each may change (R15, R21, R41) -/

namespace Sys2Proof.Machine

open Sys2Proof Sys2Proof.Claims

/-! ## The 27 instructions as seven operations on a unit (R41) -/

/-- Case analysis by operation: a fact about every instruction is one fact for each of the seven operations. -/
theorem instr_cases_by_operation {P : Instr → Prop} (next : ∀ u, P (nextOf u))
    (jump : ∀ u i, jumpOf u = some i → P i) (lds : ∀ u, P (ldsOf u)) (rds : ∀ u, P (rdsOf u))
    (seed : ∀ target source, P (seedOf target source)) (gen : ∀ u n, P (genOf u n))
    (size : ∀ u, P (sizeQueryOf u)) (i : Instr) : P i := by
  cases i with
  | nextSm64 => exact next .sm64
  | nextXs128 => exact next .xs128
  | nextXo128 => exact next .xo128
  | nextXs1024 => exact next .xs1024
  | jumpXs128 => exact jump .xs128 _ rfl
  | jumpXo128 => exact jump .xo128 _ rfl
  | jumpXs1024 => exact jump .xs1024 _ rfl
  | ldsSm64 => exact lds .sm64
  | ldsXs128 => exact lds .xs128
  | ldsXo128 => exact lds .xo128
  | ldsXs1024 => exact lds .xs1024
  | rdsSm64 => exact rds .sm64
  | rdsXs128 => exact rds .xs128
  | rdsXo128 => exact rds .xo128
  | rdsXs1024 => exact rds .xs1024
  | seedSm64 source => exact seed .sm64 source
  | seedXs128 source => exact seed .xs128 source
  | seedXo128 source => exact seed .xo128 source
  | seedXs1024 source => exact seed .xs1024 source
  | genSm64 n => exact gen .sm64 n
  | genXs128 n => exact gen .xs128 n
  | genXo128 n => exact gen .xo128 n
  | genXs1024 n => exact gen .xs1024 n
  | sizeSm64 => exact size .sm64
  | sizeXs128 => exact size .xs128
  | sizeXo128 => exact size .xo128
  | sizeXs1024 => exact size .xs1024

/-- The state update of `JUMP u`; `SM64` has none (R64). `effectOf_jumpOf` ties it to the model. -/
def jumpUnit (u : UnitId) (s : State) : State :=
  match u with
  | .sm64 => s
  | .xs128 => { s with xs128 := jumpXs128 s.xs128 }
  | .xo128 => { s with xo128 := jumpXo128 s.xo128 }
  | .xs1024 => { s with xs1024 := jumpXs1024 s.xs1024 }

section
variable (u target source : UnitId) (n : Nat) (s : State)

@[simp] theorem effectOf_nextOf : effectOf (nextOf u) s = ((draw u 1 s).2, (draw u 1 s).1) := by cases u <;> rfl
theorem effectOf_jumpOf {u : UnitId} {i : Instr} (h : jumpOf u = some i) : effectOf i s = (jumpUnit u s, []) := by
  cases u <;> cases h <;> rfl
@[simp] theorem effectOf_ldsOf : effectOf (ldsOf u) s = (construct u s.payload s, []) := by cases u <;> rfl
@[simp] theorem effectOf_rdsOf : effectOf (rdsOf u) s = (s, readOut u s) := by cases u <;> rfl
@[simp] theorem effectOf_seedOf : effectOf (seedOf target source) s =
    (construct target (draw source target.stateSize s).1 (draw source target.stateSize s).2, []) := by
  cases target <;> rfl
@[simp] theorem effectOf_genOf : effectOf (genOf u n) s = ((draw u n s).2, (draw u n s).1) := by cases u <;> rfl
@[simp] theorem effectOf_sizeQueryOf : effectOf (sizeQueryOf u) s = (s, [BitVec.ofNat 64 u.stateSize]) := by
  cases u <;> rfl

@[simp] theorem neededUnit_nextOf : neededUnit (nextOf u) = some u := by cases u <;> rfl
theorem neededUnit_jumpOf {u : UnitId} {i : Instr} (h : jumpOf u = some i) : neededUnit i = some u := by
  cases u <;> cases h <;> rfl
@[simp] theorem neededUnit_ldsOf : neededUnit (ldsOf u) = none := by cases u <;> rfl
@[simp] theorem neededUnit_rdsOf : neededUnit (rdsOf u) = some u := by cases u <;> rfl
@[simp] theorem neededUnit_seedOf : neededUnit (seedOf target source) = some source := by cases target <;> rfl
@[simp] theorem neededUnit_genOf : neededUnit (genOf u n) = some u := by cases u <;> rfl
@[simp] theorem neededUnit_sizeQueryOf : neededUnit (sizeQueryOf u) = none := by cases u <;> rfl

@[simp] theorem payloadWords_nextOf : payloadWords (nextOf u) = 0 := by cases u <;> rfl
theorem payloadWords_jumpOf {u : UnitId} {i : Instr} (h : jumpOf u = some i) : payloadWords i = 0 := by
  cases u <;> cases h <;> rfl
@[simp] theorem payloadWords_ldsOf : payloadWords (ldsOf u) = u.stateSize := by cases u <;> rfl
@[simp] theorem payloadWords_rdsOf : payloadWords (rdsOf u) = 0 := by cases u <;> rfl
@[simp] theorem payloadWords_seedOf : payloadWords (seedOf target source) = 0 := by cases target <;> rfl
@[simp] theorem payloadWords_genOf : payloadWords (genOf u n) = 0 := by cases u <;> rfl
@[simp] theorem payloadWords_sizeQueryOf : payloadWords (sizeQueryOf u) = 0 := by cases u <;> rfl

@[simp] theorem named_nextOf : named (nextOf u) = [u] := by cases u <;> rfl
theorem named_jumpOf {u : UnitId} {i : Instr} (h : jumpOf u = some i) : named i = [u] := by
  cases u <;> cases h <;> rfl
@[simp] theorem named_ldsOf : named (ldsOf u) = [u] := by cases u <;> rfl
@[simp] theorem named_rdsOf : named (rdsOf u) = [u] := by cases u <;> rfl
@[simp] theorem named_seedOf : named (seedOf target source) = [target, source] := by cases target <;> rfl
@[simp] theorem named_genOf : named (genOf u n) = [u] := by cases u <;> rfl
@[simp] theorem named_sizeQueryOf : named (sizeQueryOf u) = [u] := by cases u <;> rfl

end

/-! ## What an instruction and a command that have answered can have done -/

/-- The inversion of an instruction that answered `t`: an error without data or effect, or its effect and `OK`. -/
theorem exec_next_cases {i : Instr} {s t : State} (h : exec i s = .next t) :
    (∃ st, st ≠ .ok ∧ t = s.answer st []) ∨
    (s.payload.length = payloadWords i ∧ (∀ u, neededUnit i = some u → s.valid.get u = true) ∧
      t = (effectOf i s).1.answer .ok (effectOf i s).2) := by
  rcases exec_cases i s with ⟨-, hs⟩ | ⟨-, -, hs⟩ | ⟨hp, hv, hs⟩
  · cases hs.symm.trans h
    exact .inl ⟨.errLength, by simp, rfl⟩
  · cases hs.symm.trans h
    exact .inl ⟨.errUninit, by simp, rfl⟩
  · cases hs.symm.trans h
    exact .inr ⟨hp, hv, rfl⟩

/-- The same for a step on a command, an illegal word being one more error (R47). -/
theorem step_command_cases {s t : State} {c : Command} {rest : List Input} (hin : s.input = .command c :: rest)
    (h : step s = .next t) :
    (∃ st, st ≠ .ok ∧ t = (acceptCommand c s).answer st []) ∨
    (∃ i, decode c.word = .ok i ∧ c.payload.length = payloadWords i ∧
      (∀ u, neededUnit i = some u → s.valid.get u = true) ∧
      t = (effectOf i (acceptCommand c s)).1.answer .ok (effectOf i (acceptCommand c s)).2) := by
  rw [step_command hin] at h
  cases hd : decode c.word with
  | error e =>
    rw [hd] at h
    cases h
    exact .inl ⟨.errIllegal, by simp, rfl⟩
  | ok i =>
    rw [hd] at h
    rcases exec_next_cases h with herr | ⟨hp, hv, ht⟩
    · exact .inl herr
    · exact .inr ⟨i, rfl, hp, hv, ht⟩

/-! ## Frames: everything but one unit is as it was (R21 item 3) -/

theorem sameUnit_refl (u : UnitId) (s : State) : SameUnit u s s := by cases u <;> rfl

theorem sameUnit_symm {u : UnitId} {s t : State} (h : SameUnit u s t) : SameUnit u t s := by
  cases u <;> exact Eq.symm h

theorem sameUnit_trans {u : UnitId} {s t r : State} (h : SameUnit u s t) (h' : SameUnit u t r) : SameUnit u s r := by
  cases u <;> exact Eq.trans h h'

/-- Four frame facts, one per unit, as one about `SameUnit`. -/
theorem sameUnit_of_frames {u v : UnitId} {s t : State} (hv : v ≠ u) (sm : u ≠ .sm64 → t.sm = s.sm)
    (xs128 : u ≠ .xs128 → t.xs128 = s.xs128) (xo128 : u ≠ .xo128 → t.xo128 = s.xo128)
    (xs1024 : u ≠ .xs1024 → t.xs1024 = s.xs1024) : SameUnit v s t := by
  cases v with
  | sm64 => exact (sm hv.symm).symm
  | xs128 => exact (xs128 hv.symm).symm
  | xo128 => exact (xo128 hv.symm).symm
  | xs1024 => exact (xs1024 hv.symm).symm

/-- `t` is `s` but for the words, the cursor and the flag of unit `u` (and the model's count of free values). -/
structure ChangesOnly (u : UnitId) (s t : State) : Prop where
  input : t.input = s.input
  payload : t.payload = s.payload
  responses : t.responses = s.responses
  sameUnit : ∀ v, v ≠ u → SameUnit v s t
  flag : ∀ v, v ≠ u → t.valid.get v = s.valid.get v

theorem changesOnly_draw (u : UnitId) (n : Nat) (s : State) : ChangesOnly u s (draw u n s).2 where
  input := by simp
  payload := by simp
  responses := by simp
  sameUnit _ hv :=
    sameUnit_of_frames hv (draw_sm u n s) (draw_xs128 u n s) (draw_xo128 u n s) (draw_xs1024 u n s)
  flag _ _ := by simp

theorem changesOnly_construct {u : UnitId} {words : List Word64} (h : words.length = u.stateSize) (s : State) :
    ChangesOnly u s (construct u words s) where
  input := by simp
  payload := by simp
  responses := by simp
  sameUnit _ hv :=
    sameUnit_of_frames hv (construct_sm u words s) (construct_xs128 u words s) (construct_xo128 u words s)
      (construct_xs1024 u words s)
  flag _ hv := by simp [construct_valid u words s h, get_mark, hv]

@[simp] theorem jumpUnit_valid (u : UnitId) (s : State) : (jumpUnit u s).valid = s.valid := by cases u <;> rfl

theorem changesOnly_jumpUnit (u : UnitId) (s : State) : ChangesOnly u s (jumpUnit u s) where
  input := by cases u <;> rfl
  payload := by cases u <;> rfl
  responses := by cases u <;> rfl
  sameUnit v hv := by
    refine sameUnit_of_frames hv ?_ ?_ ?_ ?_ <;> cases u <;> simp [jumpUnit]
  flag _ _ := by simp

/-- The effect of an instruction leaves the words, the cursor and the flag of every unit it does not name. -/
theorem effectOf_frame {i : Instr} {s : State} {v : UnitId} (hp : s.payload.length = payloadWords i)
    (hv : v ∉ named i) : SameUnit v s (effectOf i s).1 ∧ (effectOf i s).1.valid.get v = s.valid.get v := by
  have alone {u : UnitId} {t : State} (h : ChangesOnly u s t) (hne : v ≠ u) :
      SameUnit v s t ∧ t.valid.get v = s.valid.get v := ⟨h.sameUnit v hne, h.flag v hne⟩
  induction i using instr_cases_by_operation with
  | next u =>
    rw [effectOf_nextOf]
    exact alone (changesOnly_draw u 1 s) (by simpa using hv)
  | jump u i hi =>
    rw [effectOf_jumpOf s hi]
    exact alone (changesOnly_jumpUnit u s) (by simpa [named_jumpOf hi] using hv)
  | lds u =>
    rw [effectOf_ldsOf]
    exact alone (changesOnly_construct (by simpa using hp) s) (by simpa using hv)
  | seed target source =>
    have ⟨htarget, hsource⟩ : v ≠ target ∧ v ≠ source := by simpa using hv
    have hdraw := changesOnly_draw source target.stateSize s
    have hbuild := changesOnly_construct (draw_length source target.stateSize s) (draw source target.stateSize s).2
    rw [effectOf_seedOf]
    exact ⟨sameUnit_trans (hdraw.sameUnit v hsource) (hbuild.sameUnit v htarget),
      (hbuild.flag v htarget).trans (hdraw.flag v hsource)⟩
  | gen u n =>
    rw [effectOf_genOf]
    exact alone (changesOnly_draw u n s) (by simpa using hv)
  | rds u =>
    rw [effectOf_rdsOf]
    exact ⟨sameUnit_refl v s, rfl⟩
  | size u =>
    rw [effectOf_sizeQueryOf]
    exact ⟨sameUnit_refl v s, rfl⟩

theorem sameUnit_answer {u : UnitId} {s t : State} (h : SameUnit u s t) (st : Status) (data : List Word64) :
    SameUnit u s (t.answer st data) := by
  cases u <;> exact h

/-- Settles O21: an error leaves every unit, and the effect leaves every unit not named. -/
theorem unitsAreIndependent : Obligations.UnitsAreIndependent := by
  intro i s t u h hu
  rcases exec_next_cases h with ⟨st, -, rfl⟩ | ⟨hp, -, rfl⟩
  · exact ⟨sameUnit_answer (sameUnit_refl u s) _ _, rfl⟩
  · have ⟨hsame, hflag⟩ := effectOf_frame hp hu
    exact ⟨sameUnit_answer hsame _ _, hflag⟩

/-! ## The constructed flags (R15, R21 item 5) -/

/-- Only `LDS` and `SEED` touch the flags: each sets that of the unit it constructs. -/
theorem effectOf_valid_cases {i : Instr} {s : State} (hp : s.payload.length = payloadWords i) :
    (effectOf i s).1.valid = s.valid ∨
    ∃ u, (i = ldsOf u ∨ ∃ source, i = seedOf u source) ∧ (effectOf i s).1.valid = s.valid.mark u ∧
      (effectOf i s).2 = [] := by
  induction i using instr_cases_by_operation with
  | next u => exact .inl (by simp)
  | jump u i hi => exact .inl (by simp [effectOf_jumpOf s hi])
  | rds u => exact .inl (by simp)
  | gen u n => exact .inl (by simp)
  | size u => exact .inl (by simp)
  | lds u =>
    have hlen : s.payload.length = u.stateSize := by simpa using hp
    exact .inr ⟨u, .inl rfl, by simp [construct_valid u _ s hlen], by simp⟩
  | seed target source =>
    exact .inr ⟨target, .inr ⟨source, rfl⟩, by simp [construct_valid], by simp⟩

/-- Settles O20: the flags after a command are those before it, or those with the constructed unit marked. -/
theorem flagsAreSetOnlyByConstruction : Obligations.FlagsAreSetOnlyByConstruction := by
  intro s t c rest u hin h
  rcases step_command_cases hin h with ⟨st, -, rfl⟩ | ⟨i, hd, hp, -, rfl⟩
  · exact ⟨id, fun hclear hset => absurd hset (by simp [hclear])⟩
  · rcases effectOf_valid_cases (s := acceptCommand c s) hp with hkeep | ⟨w, hi, hmark, hdata⟩
    · simp only [answer_valid, hkeep, acceptCommand_valid]
      exact ⟨id, fun hclear hset => absurd hset (by simp [hclear])⟩
    · simp only [answer_valid, hmark, acceptCommand_valid]
      refine ⟨get_mark_mono s.valid w u, fun hclear hset => ?_⟩
      obtain rfl : u = w := by simpa [get_mark, hclear] using hset
      refine ⟨?_, by simp [hdata]⟩
      rcases hi with rfl | ⟨source, rfl⟩
      · exact .inl hd
      · exact .inr ⟨source, hd⟩

/-- Settles O9: both values stand in the definition of the reset state (R22). -/
theorem resetStateValues : Obligations.ResetStateValues := ⟨rfl, rfl⟩

end Sys2Proof.Machine

/-! # No word of a unit that is not constructed can be seen (R22, R123) -/

namespace Sys2Proof.Machine

open Sys2Proof Sys2Proof.Claims

/-! ## Operations on a unit both states agree on leave them agreeing on it -/

section
variable {u : UnitId} {s t : State}

theorem draw_state_congr (n : Nat) (h : SameUnit u s t) : SameUnit u (draw u n s).2 (draw u n t).2 := by
  induction n generalizing s t with
  | zero => exact h
  | succ n ih => exact ih (sameUnit_nextUnit h)

theorem jumpUnit_congr (h : SameUnit u s t) : SameUnit u (jumpUnit u s) (jumpUnit u t) := by
  cases u with
  | sm64 => exact h
  | xs128 => exact congrArg jumpXs128 h
  | xo128 => exact congrArg jumpXo128 h
  | xs1024 => exact congrArg jumpXs1024 h

/-- A construction writes every word, so the two states need not have agreed on the unit before it. -/
theorem sameUnit_construct {words : List Word64} (h : words.length = u.stateSize) (s t : State) :
    SameUnit u (construct u words s) (construct u words t) := by
  cases u
  · match words, h with
    | [_], _ => rfl
  · match words, h with
    | [_, _], _ => rfl
  · match words, h with
    | [_, _], _ => rfl
  · simp only [SameUnit, construct, dif_pos (show words.length = 16 from h)]

end

/-! ## Agreement is kept -/

/-- States agree when they agree on every flag, and a change of one unit in both is judged on that unit alone. -/
theorem agree_of_changesOnly {u : UnitId} {s t s' t' : State} (h : AgreeButUnspecified s t)
    (hs : ChangesOnly u s s') (ht : ChangesOnly u t t') (hvalid : s'.valid = t'.valid)
    (hunit : SameUnit u s' t') : AgreeButUnspecified s' t' := by
  obtain ⟨-, hin, hpay, hresp, hsame⟩ := h
  refine ⟨hvalid, ?_, ?_, ?_, fun v hv => ?_⟩
  · rw [hs.input, ht.input, hin]
  · rw [hs.payload, ht.payload, hpay]
  · rw [hs.responses, ht.responses, hresp]
  · by_cases hvu : v = u
    · exact hvu ▸ hunit
    · have hst : SameUnit v s t := hsame v (hs.flag v hvu ▸ hv)
      exact sameUnit_trans (sameUnit_symm (hs.sameUnit v hvu)) (sameUnit_trans hst (ht.sameUnit v hvu))

section
variable {u : UnitId} {s t : State}

theorem agree_draw (n : Nat) (h : AgreeButUnspecified s t) (hu : SameUnit u s t) :
    AgreeButUnspecified (draw u n s).2 (draw u n t).2 :=
  agree_of_changesOnly h (changesOnly_draw u n s) (changesOnly_draw u n t) (by simpa using h.1) (draw_state_congr n hu)

theorem agree_jumpUnit (h : AgreeButUnspecified s t) (hu : SameUnit u s t) :
    AgreeButUnspecified (jumpUnit u s) (jumpUnit u t) :=
  agree_of_changesOnly h (changesOnly_jumpUnit u s) (changesOnly_jumpUnit u t) (by simpa using h.1) (jumpUnit_congr hu)

theorem agree_construct {words : List Word64} (hlen : words.length = u.stateSize) (h : AgreeButUnspecified s t) :
    AgreeButUnspecified (construct u words s) (construct u words t) :=
  agree_of_changesOnly h (changesOnly_construct hlen s) (changesOnly_construct hlen t)
    (by rw [construct_valid u words s hlen, construct_valid u words t hlen, h.1]) (sameUnit_construct hlen s t)

theorem agree_answer (st : Status) (data : List Word64) (h : AgreeButUnspecified s t) :
    AgreeButUnspecified (s.answer st data) (t.answer st data) := by
  obtain ⟨hvalid, hin, -, hresp, hsame⟩ := h
  refine ⟨hvalid, hin, rfl, by simp [hresp], fun v hv => ?_⟩
  cases v <;> exact hsame _ hv

theorem agree_acceptCommand (c : Command) (h : AgreeButUnspecified s t) :
    AgreeButUnspecified (acceptCommand c s) (acceptCommand c t) := by
  obtain ⟨hvalid, hin, -, hresp, hsame⟩ := h
  refine ⟨hvalid, by simp [hin], rfl, hresp, fun v hv => ?_⟩
  cases v <;> exact hsame _ hv

/-- A reset leaves no unit constructed, so nothing is asked of the words. -/
theorem agree_reset (h : AgreeButUnspecified s t) :
    AgreeButUnspecified (resetBlock (dropInput s)) (resetBlock (dropInput t)) := by
  obtain ⟨-, hin, -, hresp, -⟩ := h
  exact ⟨rfl, by simp [hin], rfl, hresp, fun v hv => absurd hv (by simp)⟩

end

/-- The effect of a checked instruction keeps agreement: it reads only a constructed unit, and constructs from words
that are the same in both states. -/
theorem agree_effectOf {i : Instr} {s t : State} (h : AgreeButUnspecified s t)
    (hp : s.payload.length = payloadWords i) (hneed : ∀ u, neededUnit i = some u → SameUnit u s t) :
    AgreeButUnspecified (effectOf i s).1 (effectOf i t).1 := by
  induction i using instr_cases_by_operation with
  | next u => simpa using agree_draw 1 h (hneed u (by simp))
  | jump u i hi => simpa [effectOf_jumpOf _ hi] using agree_jumpUnit h (hneed u (neededUnit_jumpOf hi))
  | lds u =>
    have ⟨_, _, hpay, _, _⟩ := h
    simpa [hpay] using agree_construct (words := s.payload) (by simpa using hp) h
  | seed target source =>
    have hsource : SameUnit source s t := hneed source (by simp)
    have hwords := draw_words_congr target.stateSize hsource
    simpa [hwords] using agree_construct (draw_length source target.stateSize t)
      (agree_draw target.stateSize h hsource)
  | gen u n => simpa using agree_draw n h (hneed u (by simp))
  | rds u => simpa using h
  | size u => simpa using h

/-- Both states meet the same ending of an instruction and agree after it. -/
theorem exec_keeps_agreement (i : Instr) {s t : State} (h : AgreeButUnspecified s t) :
    ∃ s' t', exec i s = .next s' ∧ exec i t = .next t' ∧ AgreeButUnspecified s' t' := by
  have ⟨hvalid, _, hpay, _, hsame⟩ := h
  rcases exec_cases i s with ⟨hp, hs⟩ | ⟨hp, ⟨u, hn, hv⟩, hs⟩ | ⟨hp, hv, hs⟩
  · exact ⟨_, _, hs, exec_of_wrong_payload (hpay ▸ hp), agree_answer _ _ h⟩
  · exact ⟨_, _, hs, exec_of_unconstructed (hpay ▸ hp) hn (hvalid ▸ hv), agree_answer _ _ h⟩
  · have hneed : ∀ u, neededUnit i = some u → SameUnit u s t := fun u hn => hsame u (hv u hn)
    refine ⟨_, _, hs, exec_of_checked (hpay ▸ hp) (hvalid ▸ hv), ?_⟩
    rw [effectOf_data_congr hneed]
    exact agree_answer _ _ (agree_effectOf h hp hneed)

/-- The step lemma on pairs of states, for every kind of input. -/
theorem step_keeps_agreement {s t : State} (h : AgreeButUnspecified s t) :
    ∃ s' t', step s = .next s' ∧ step t = .next t' ∧ AgreeButUnspecified s' t' := by
  have ⟨_, hin, _, _, _⟩ := h
  cases hs : s.input with
  | nil => exact ⟨s, t, step_idle hs, step_idle (hin ▸ hs), h⟩
  | cons x rest =>
    have ht := hin ▸ hs
    cases x with
    | reset => exact ⟨_, _, step_reset hs, step_reset ht, agree_reset h⟩
    | resetDuring c => exact ⟨_, _, step_resetDuring hs, step_resetDuring ht, agree_reset h⟩
    | command c =>
      have haccept := agree_acceptCommand c h
      rw [step_command hs, step_command ht]
      cases decode c.word with
      | error e => exact ⟨_, _, rfl, rfl, agree_answer _ _ haccept⟩
      | ok i => exact exec_keeps_agreement i haccept

/-- Settles O22, by induction on the number of steps. -/
theorem unspecifiedWordsAreNeverSeen : Obligations.UnspecifiedWordsAreNeverSeen := by
  intro k
  induction k with
  | zero =>
    intro s t s' h hrun
    cases hrun
    exact ⟨t, rfl, h⟩
  | succ k ih =>
    intro s t s' h hrun
    obtain ⟨s₁, t₁, hs, ht, h₁⟩ := step_keeps_agreement h
    rw [run_step hs] at hrun
    rw [run_step ht]
    exact ih s₁ t₁ s' h₁ hrun

end Sys2Proof.Machine

/-! # The responses given are never read (R19, R126) -/

namespace Sys2Proof.Machine

open Sys2Proof Sys2Proof.Claims

/-- `s` with another record of responses. -/
def State.withResponses (s : State) (before : List Response) : State := { s with responses := before }

section
variable (s : State) (before : List Response)

@[simp] theorem withResponses_payload : (s.withResponses before).payload = s.payload := rfl

theorem answer_withResponses (st : Status) (data : List Word64) :
    (s.withResponses before).answer st data = (s.answer st data).withResponses (before ++ [⟨st, data⟩]) := rfl

theorem acceptCommand_withResponses (c : Command) :
    acceptCommand c (s.withResponses before) = (acceptCommand c s).withResponses before := rfl

theorem sameUnit_withResponses (u : UnitId) : SameUnit u (s.withResponses before) s := by cases u <;> rfl

theorem nextUnit_withResponses (u : UnitId) :
    nextUnit u (s.withResponses before) = ((nextUnit u s).1, (nextUnit u s).2.withResponses before) := by
  cases u <;> rfl

theorem draw_withResponses (u : UnitId) (n : Nat) :
    (draw u n (s.withResponses before)).2 = (draw u n s).2.withResponses before := by
  induction n generalizing s with
  | zero => rfl
  | succ n ih => rw [draw_succ, draw_succ, nextUnit_withResponses, ih]

theorem jumpUnit_withResponses (u : UnitId) :
    jumpUnit u (s.withResponses before) = (jumpUnit u s).withResponses before := by
  cases u <;> simp only [jumpUnit, State.withResponses]

theorem construct_withResponses (u : UnitId) (words : List Word64) :
    construct u words (s.withResponses before) = (construct u words s).withResponses before := by
  cases u <;> simp only [construct] <;> split <;> rfl

/-- The data words of an effect do not come from the responses. -/
theorem effectOf_data_withResponses (i : Instr) : (effectOf i (s.withResponses before)).2 = (effectOf i s).2 :=
  effectOf_data_congr fun u _ => sameUnit_withResponses s before u

theorem effectOf_withResponses (i : Instr) :
    (effectOf i (s.withResponses before)).1 = (effectOf i s).1.withResponses before := by
  induction i using instr_cases_by_operation with
  | next u => simp only [effectOf_nextOf, draw_withResponses]
  | jump u i hi => simp only [effectOf_jumpOf _ hi, jumpUnit_withResponses]
  | lds u => simp only [effectOf_ldsOf, withResponses_payload, construct_withResponses]
  | seed target source =>
    simp only [effectOf_seedOf, draw_withResponses, construct_withResponses,
      draw_words_congr _ (sameUnit_withResponses s before source)]
  | gen u n => simp only [effectOf_genOf, draw_withResponses]
  | rds u => simp only [effectOf_rdsOf]
  | size u => simp only [effectOf_sizeQueryOf]

end

/-- An instruction appends its response to whatever record it finds, and does the same beside it. -/
theorem exec_withResponses {i : Instr} {s t : State} (before : List Response) (h : exec i s = .next t) :
    ∃ new, t.responses = s.responses ++ new ∧
      exec i (s.withResponses before) = .next (t.withResponses (before ++ new)) := by
  rcases exec_cases i s with ⟨hp, hs⟩ | ⟨hp, ⟨u, hn, hv⟩, hs⟩ | ⟨hp, hv, hs⟩
  · cases hs.symm.trans h
    exact ⟨_, answer_responses s _ _, exec_of_wrong_payload hp⟩
  · cases hs.symm.trans h
    exact ⟨_, answer_responses s _ _, exec_of_unconstructed hp hn hv⟩
  · cases hs.symm.trans h
    refine ⟨[⟨.ok, (effectOf i s).2⟩], by simp, ?_⟩
    rw [exec_of_checked (s := s.withResponses before) hp hv, effectOf_withResponses, effectOf_data_withResponses,
      answer_withResponses]

/-- Settles O23: a step with no command appends nothing, a command its one response. -/
theorem responsesAreNeverRead : Obligations.ResponsesAreNeverRead := by
  intro s t before h
  change ∃ new, t.responses = s.responses ++ new ∧
    step (s.withResponses before) = .next (t.withResponses (before ++ new))
  cases hs : s.input with
  | nil =>
    cases (step_idle hs).symm.trans h
    exact ⟨[], by simp, by rw [List.append_nil]; exact step_idle hs⟩
  | cons x rest =>
    cases x with
    | reset =>
      cases (step_reset hs).symm.trans h
      exact ⟨[], by simp, by rw [List.append_nil]; exact step_reset hs⟩
    | resetDuring c =>
      cases (step_resetDuring hs).symm.trans h
      exact ⟨[], by simp, by rw [List.append_nil]; exact step_resetDuring hs⟩
    | command c =>
      rw [step_command hs] at h
      rw [step_command (s := s.withResponses before) hs, acceptCommand_withResponses]
      cases hd : decode c.word with
      | error e =>
        rw [hd] at h
        cases h
        exact ⟨_, answer_responses (acceptCommand c s) _ _, rfl⟩
      | ok i =>
        rw [hd] at h
        exact exec_withResponses before h

end Sys2Proof.Machine

/-! # The cursor of XS1024 (R14) -/

namespace Sys2Proof.Machine

open Sys2Proof Sys2Proof.Claims

/-! ## What moves the cursor -/

theorem construct_xs1024_cursor {words : List Word64} (h : words.length = 16) (s : State) :
    (construct .xs1024 words s).xs1024.p = 0 := by
  simp only [construct, dif_pos h]

theorem advanceXs1024_cursor (u : Xs1024Regs) : (advanceXs1024 u).p = u.p + 1 := rfl

theorem advanceXs1024_iterate_cursor (n : Nat) (u : Xs1024Regs) :
    (advanceXs1024^[n] u).p = u.p + BitVec.ofNat 4 n := by
  induction n with
  | zero => simp
  | succ n ih => rw [Function.iterate_succ_apply', advanceXs1024_cursor, ih, BitVec.ofNat_add, BitVec.add_assoc]; rfl

/-- A run of `n` outputs of XS1024 is `n` advances of its registers. -/
theorem draw_xs1024_regs (n : Nat) (s : State) : (draw .xs1024 n s).2.xs1024 = advanceXs1024^[n] s.xs1024 := by
  induction n generalizing s with
  | zero => rfl
  | succ n ih => rw [draw_succ]; exact ih _

theorem draw_xs1024_cursor (n : Nat) (s : State) :
    (draw .xs1024 n s).2.xs1024.p.toNat = (s.xs1024.p.toNat + n) % 16 := by
  rw [draw_xs1024_regs, advanceXs1024_iterate_cursor, BitVec.toNat_add, BitVec.toNat_ofNat, Nat.add_mod_mod]

/-- The loop of `JUMP` takes 1024 advances, 64 times round the sixteen words (R94). -/
theorem jumpXs1024_cursor (u : Xs1024Regs) : (jumpXs1024 u).p = u.p := by
  have hbits : (polynomialBits Config.jump1024).length = 1024 := polynomialBits_length _
  simp only [jumpXs1024, jumpLoop_state, hbits, advanceXs1024_iterate_cursor]
  exact BitVec.add_zero _

/-- `SIZE` of any unit leaves XS1024 as it was, refused or answered (R90). -/
theorem exec_sizeQueryOf_keeps_xs1024 {u : UnitId} {s t : State} (h : exec (sizeQueryOf u) s = .next t) :
    t.xs1024 = s.xs1024 := by
  rcases exec_next_cases h with ⟨st, -, rfl⟩ | ⟨-, -, rfl⟩
  · rfl
  · simp

/-- A checked instruction ends in its effect, here for one that takes no payload and reads the constructed unit `u`. -/
theorem exec_of_needed {i : Instr} {s : State} {u : UnitId} (hi : payloadWords i = 0) (hn : neededUnit i = some u)
    (hp : s.payload = []) (hv : s.valid.get u = true) :
    exec i s = .next ((effectOf i s).1.answer .ok (effectOf i s).2) := by
  refine exec_of_checked (by simp [hp, hi]) fun v hv' => ?_
  cases hn.symm.trans hv'
  exact hv

/-- Settles O51: each clause is the effect of the instruction seen at the cursor. -/
theorem cursorRule : Obligations.CursorRule := by
  refine ⟨fun s hp => ?_, fun s source hp hv => ?_, fun s target htarget hp hv => ?_, fun s hp hv => ?_,
    fun i s t h hi => ?_⟩
  · exact ⟨_, exec_of_checked hp (by simp [neededUnit]), construct_xs1024_cursor hp s⟩
  · exact ⟨_, exec_of_needed rfl rfl hp hv, construct_xs1024_cursor (draw_length source 16 s) (draw source 16 s).2⟩
  · refine ⟨_, exec_of_needed (payloadWords_seedOf target _) (neededUnit_seedOf target _) hp hv, ?_⟩
    rw [answer_xs1024, effectOf_seedOf, construct_xs1024 _ _ _ htarget]
    exact draw_xs1024_cursor _ s
  · refine ⟨⟨_, exec_of_needed rfl rfl hp hv, draw_xs1024_cursor 1 s⟩,
      fun n => ⟨_, exec_of_needed rfl rfl hp hv, draw_xs1024_cursor n s⟩,
      ⟨_, exec_of_needed rfl rfl hp hv, jumpXs1024_cursor s.xs1024⟩,
      ⟨_, _, exec_of_needed rfl rfl hp hv, rfl, rfl, ?_⟩⟩
    simp [effectOf, readOut]
  · rcases hi with rfl | hnot
    · exact congrArg Xs1024Regs.p (exec_sizeQueryOf_keeps_xs1024 (u := .xs1024) h)
    · obtain ⟨hsame, -⟩ := unitsAreIndependent i s t .xs1024 h hnot
      exact congrArg Xs1024Regs.p (Eq.symm hsame)

end Sys2Proof.Machine

/-! # The status of a command, and a list of commands run to its end (R36, R45, R47) -/

namespace Sys2Proof.Machine

open Sys2Proof Sys2Proof.Claims

/-! ## The numbers of a word's fields and what they name (R41, R42) -/

theorem operationOfCode_eq_none_iff (b : BitVec 4) : operationOfCode b = none ↔ b.toNat = 0 ∨ 8 ≤ b.toNat := by
  revert b; decide

theorem operationCode_eq_seed_iff (op : Operation) : (operationCode op).toNat = 5 ↔ op = .seed := by cases op <;> decide

theorem operationCode_eq_gen_iff (op : Operation) : (operationCode op).toNat = 6 ↔ op = .gen := by cases op <;> decide

theorem unitOfNumber_eq_sm64_iff (b : BitVec 2) : unitOfNumber b = .sm64 ↔ b.toNat = 0 := by revert b; decide

theorem wordsOfUnit_toNat (b : BitVec 2) : wordsOfUnit b.toNat = (unitOfNumber b).stateSize := by
  unfold unitOfNumber
  match b.toNat with
  | 0 | 1 | 2 | _ + 3 => rfl

theorem flagOfUnit_toNat (v : ValidFlags) (b : BitVec 2) : flagOfUnit v b.toNat = v.get (unitOfNumber b) := by
  unfold unitOfNumber
  match b.toNat with
  | 0 | 1 | 2 | _ + 3 => rfl

/-! ## The legality of a word: step 1 of R47 -/

/-- The only operation without an instruction is `JUMP` of `SM64` (R64). -/
theorem selectInstr_error {op : Operation} {t s : UnitId} {n : Nat} {e : Illegal} (h : selectInstr op t s n = .error e) :
    op = .jump ∧ t = .sm64 := by
  cases op with
  | jump =>
    cases t with
    | sm64 => exact ⟨rfl, rfl⟩
    | xs128 | xo128 | xs1024 => cases h
  | next | lds | rds | seed | gen | size => cases h

/-- `JUMP` selects its instruction only where the unit number is not 0 (R64). -/
theorem selectInstr_jump {b : BitVec 2} {s : UnitId} {n : Nat} {i : Instr}
    (h : selectInstr .jump (unitOfNumber b) s n = .ok i) : jumpOf (unitOfNumber b) = some i ∧ b.toNat ≠ 0 := by
  rw [ne_eq, ← unitOfNumber_eq_sm64_iff]
  generalize unitOfNumber b = u at h ⊢
  cases u with
  | sm64 => cases h
  | xs128 | xo128 | xs1024 =>
    cases h
    exact ⟨rfl, by decide⟩

/-- A word the decoder rejects meets a condition of R121, the one whose check it fails. -/
theorem illegalWord_of_decode_error {w : CommandWord} {e : Illegal} (h : decode w = .error e) : IllegalWord w := by
  rw [IllegalWord, ← opField, ← tField, ← sField, ← zField, ← nField]
  unfold decode at h
  cases hop : operationOfCode (opField w) with
  | none =>
    have := (operationOfCode_eq_none_iff _).mp hop
    tauto
  | some op =>
    simp only [hop] at h
    simp only [← operationCode_of_some hop, ne_eq, operationCode_eq_seed_iff, operationCode_eq_gen_iff]
    split_ifs at h
    · tauto
    · tauto
    · tauto
    · obtain ⟨rfl, ht⟩ := selectInstr_error h
      have := (unitOfNumber_eq_sm64_iff _).mp ht
      tauto

/-- A legal word: its operation code is one of the seven, the fields the operation does not use are 0, and the operation
selects the instruction. -/
theorem decode_ok_fields {w : CommandWord} {i : Instr} (h : decode w = .ok i) :
    ∃ op, opField w = operationCode op ∧ zField w = 0 ∧ (op ≠ .seed → sField w = 0) ∧ (op ≠ .gen → nField w = 0) ∧
      selectInstr op (unitOfNumber (tField w)) (unitOfNumber (sField w)) (nField w).toNat = .ok i := by
  unfold decode at h
  cases hop : operationOfCode (opField w) with
  | none => simp [hop] at h
  | some op =>
    simp only [hop] at h
    split_ifs at h with hz hs hn
    exact ⟨op, (operationCode_of_some hop).symm, not_not.mp hz, by simpa using hs, by simpa using hn, h⟩

/-! ## The status R47 gives a command -/

theorem statusOf_of_illegalWord {c : Command} (h : IllegalWord c.word) (v : ValidFlags) :
    statusOf v c = .errIllegal := by
  rw [IllegalWord, ← opField, ← tField, ← sField, ← zField, ← nField] at h
  simp only [ne_eq, ← BitVec.toNat_inj, BitVec.ofNat_eq_ofNat, BitVec.toNat_ofNat, Nat.zero_mod] at h
  simp only [statusOf]
  rw [← opField, ← tField, ← sField, ← zField, ← nField]
  rcases h with h | h | h | h | h | h <;> simp [h]

/-- The status of a decoded instruction: steps 2 and 3 of R47 check its payload and the unit it reads. `exec_answers` ties
it to the model, `statusOf_of_legal` to the procedure on numbers. -/
def checkedStatus (i : Instr) (payload : List Word64) (v : ValidFlags) : Status :=
  if payload.length ≠ payloadWords i then .errLength
  else if (neededUnit i).any (fun u => !v.get u) then .errUninit
  else .ok

section
variable {i : Instr} {payload : List Word64} {v : ValidFlags}

theorem checkedStatus_of_wrong_payload (h : payload.length ≠ payloadWords i) :
    checkedStatus i payload v = .errLength := by
  simp [checkedStatus, h]

theorem checkedStatus_of_unconstructed {u : UnitId} (hp : payload.length = payloadWords i) (hn : neededUnit i = some u)
    (hv : v.get u = false) : checkedStatus i payload v = .errUninit := by
  simp [checkedStatus, hp, hn, hv]

theorem checkedStatus_of_checked (hp : payload.length = payloadWords i)
    (hv : ∀ u, neededUnit i = some u → v.get u = true) : checkedStatus i payload v = .ok := by
  have : (neededUnit i).any (fun u => !v.get u) = false := by simpa [Option.any_eq_false] using hv
  simp [checkedStatus, hp, this]

end

/-- A legal word passes step 1 of R47, so its status is that of steps 2 and 3. -/
theorem statusOf_of_legal {c : Command} {i : Instr} (h : decode c.word = .ok i) (v : ValidFlags) :
    statusOf v c = checkedStatus i c.payload v := by
  obtain ⟨op, hop, hz, hs, hn, hi⟩ := decode_ok_fields h
  simp only [statusOf]
  rw [← opField, ← tField, ← sField, ← zField, ← nField, hop, hz, wordsOfUnit_toNat, flagOfUnit_toNat, flagOfUnit_toNat]
  cases op with
  | jump =>
    obtain ⟨hj, ht⟩ := selectInstr_jump hi
    simp [checkedStatus, operationCode, hs, hn, ht, payloadWords_jumpOf hj, neededUnit_jumpOf hj]
  | next | lds | rds | seed | gen | size =>
    cases hi
    simp [checkedStatus, operationCode, hs, hn]

/-! ## A command and a list of commands -/

/-- Every instruction appends one response, with the status of its checks. -/
theorem exec_answers (i : Instr) (s : State) :
    ∃ t data, exec i s = .next t ∧ t.input = s.input ∧
      t.responses = s.responses ++ [⟨checkedStatus i s.payload s.valid, data⟩] := by
  rcases exec_cases i s with ⟨hp, hs⟩ | ⟨hp, ⟨u, hn, hv⟩, hs⟩ | ⟨hp, hv, hs⟩
  · rw [checkedStatus_of_wrong_payload hp]
    exact ⟨_, _, hs, rfl, rfl⟩
  · rw [checkedStatus_of_unconstructed hp hn hv]
    exact ⟨_, _, hs, rfl, rfl⟩
  · rw [checkedStatus_of_checked hp hv]
    exact ⟨_, _, hs, by simp, congrArg (· ++ _) (effectOf_responses i s)⟩

/-- A step on a command takes it from the input and appends one response, with the status R47 gives the command. -/
theorem step_command_answers {s : State} {c : Command} {rest : List Input} (h : s.input = .command c :: rest) :
    ∃ t data, step s = .next t ∧ t.input = rest ∧ t.responses = s.responses ++ [⟨statusOf s.valid c, data⟩] := by
  rw [step_command h]
  cases hd : decode c.word with
  | error e =>
    rw [statusOf_of_illegalWord (illegalWord_of_decode_error hd)]
    exact ⟨_, [], rfl, by simp [h], by simp⟩
  | ok i =>
    rw [statusOf_of_legal hd]
    obtain ⟨t, data, ht, hin, hresp⟩ := exec_answers i (acceptCommand c s)
    exact ⟨t, data, ht, by simpa [h] using hin, hresp⟩

/-- Settles O11, by induction on the list: the first step answers the first command, and the rest run from the state after
it. -/
theorem commandListRunsInOrder : Obligations.CommandListRunsInOrder := by
  intro cs
  induction cs with
  | nil =>
    intro s hin
    exact ⟨s, [], rfl, hin, by simp, rfl, fun k c hc => by simp at hc⟩
  | cons c cs ih =>
    intro s hin
    obtain ⟨s₁, data, hstep, hin₁, hresp₁⟩ := step_command_answers hin
    obtain ⟨t, rs, hrun, hempty, hresp, hlen, hstatus⟩ := ih s₁ hin₁
    refine ⟨t, ⟨statusOf s.valid c, data⟩ :: rs, (run_step hstep).trans hrun, hempty, by simp [hresp, hresp₁],
      by simp [hlen], fun k d hd => ?_⟩
    cases k with
    | zero =>
      cases hd
      exact ⟨s, _, rfl, rfl, rfl⟩
    | succ k =>
      obtain ⟨m, r, hm, hr, hst⟩ := hstatus k d hd
      exact ⟨m, r, (run_step hstep).trans hm, hr, hst⟩

end Sys2Proof.Machine

/-! # Encoding and decoding are inverse, and which words are legal (R40 to R43, R47 to R49) -/

namespace Sys2Proof.Machine

open Sys2Proof Sys2Proof.Claims

/-! ## The operation and operands of an instruction -/

/-- The opcode map of R41 as a relation: the operation `op` on unit `t` with source `s` and count `n` is the instruction,
the operands the operation does not use being 0. `Selects.selectInstr_eq` and `selects_of_decode` tie it to the model. -/
inductive Selects : (op : Operation) → (t s : UnitId) → (n : Nat) → Instr → Prop
  | next (u : UnitId) : Selects .next u .sm64 0 (nextOf u)
  | jump {u : UnitId} {i : Instr} (h : jumpOf u = some i) : Selects .jump u .sm64 0 i
  | lds (u : UnitId) : Selects .lds u .sm64 0 (ldsOf u)
  | rds (u : UnitId) : Selects .rds u .sm64 0 (rdsOf u)
  | seed (target source : UnitId) : Selects .seed target source 0 (seedOf target source)
  | gen (u : UnitId) (n : Nat) : Selects .gen u .sm64 n (genOf u n)
  | size (u : UnitId) : Selects .size u .sm64 0 (sizeQueryOf u)

/-- The word of an operation with its operands, `Z` being 0 (R40). -/
def operationWord (op : Operation) (t s : UnitId) (n : Nat) : CommandWord :=
  packFields (operationCode op) (unitNumber t) (unitNumber s) 0 (BitVec.ofNat 16 n)

theorem exists_selects (i : Instr) : ∃ op t s n, Selects op t s n i := by
  induction i using instr_cases_by_operation with
  | next u => exact ⟨_, _, _, _, .next u⟩
  | jump u i hi => exact ⟨_, _, _, _, .jump hi⟩
  | lds u => exact ⟨_, _, _, _, .lds u⟩
  | rds u => exact ⟨_, _, _, _, .rds u⟩
  | seed target source => exact ⟨_, _, _, _, .seed target source⟩
  | gen u n => exact ⟨_, _, _, _, .gen u n⟩
  | size u => exact ⟨_, _, _, _, .size u⟩

section
variable {op : Operation} {t s : UnitId} {n : Nat} {i : Instr}

theorem selects_of_selectInstr (h : selectInstr op t s n = .ok i) (hs : op ≠ .seed → s = .sm64)
    (hn : op ≠ .gen → n = 0) : Selects op t s n i := by
  cases op with
  | jump =>
    obtain rfl := hs (by decide)
    obtain rfl := hn (by decide)
    cases t with
    | sm64 => cases h
    | xs128 | xo128 | xs1024 =>
      cases h
      exact .jump rfl
  | seed =>
    obtain rfl := hn (by decide)
    cases h
    exact .seed t s
  | gen =>
    obtain rfl := hs (by decide)
    cases h
    exact .gen t n
  | next | lds | rds | size =>
    obtain rfl := hs (by decide)
    obtain rfl := hn (by decide)
    cases h
    constructor

namespace Selects

theorem selectInstr_eq (h : Selects op t s n i) : selectInstr op t s n = .ok i := by
  cases h with
  | jump h => simp [selectInstr, h]
  | next | lds | rds | seed | gen | size => rfl

theorem source_eq (h : Selects op t s n i) (hop : op ≠ .seed) : s = .sm64 := by
  cases h with
  | seed => exact absurd rfl hop
  | next | jump | lds | rds | gen | size => rfl

theorem count_eq (h : Selects op t s n i) (hop : op ≠ .gen) : n = 0 := by
  cases h with
  | gen => exact absurd rfl hop
  | next | jump | lds | rds | seed | size => rfl

/-- Only the count can fail to fit its field (R50). -/
theorem wellFormed_iff (h : Selects op t s n i) : i.wellFormed = true ↔ n < 65536 := by
  cases h with
  | jump h => cases t <;> cases h <;> simp [Instr.wellFormed]
  | gen => cases t <;> exact decide_eq_true_iff
  | next | lds | rds | seed | size => cases t <;> simp [Instr.wellFormed, nextOf, ldsOf, rdsOf, seedOf, sizeQueryOf]

theorem encode_eq (h : Selects op t s n i) : encode i = operationWord op t s n := by
  cases h with
  | jump h => cases t <;> cases h <;> rfl
  | next | lds | rds | seed | gen | size => cases t <;> rfl

/-- Whether an operation exists for a unit does not depend on the source and the count. -/
theorem exists_selectInstr (h : Selects op t s n i) (s' : UnitId) (n' : Nat) : ∃ j, selectInstr op t s' n' = .ok j := by
  cases h with
  | jump h => exact ⟨i, by simp [selectInstr, h]⟩
  | next | lds | rds | seed | gen | size => exact ⟨_, rfl⟩

end Selects

end

/-! ## The decoder on the fields of a word (R47) -/

/-- The converse of `decode_ok_fields`: where the fields the operation does not use are 0, the operation selects. -/
theorem decode_of_fields {w : CommandWord} {op : Operation} (hop : opField w = operationCode op) (hz : zField w = 0)
    (hs : op ≠ .seed → sField w = 0) (hn : op ≠ .gen → nField w = 0) :
    decode w = selectInstr op (unitOfNumber (tField w)) (unitOfNumber (sField w)) (nField w).toNat := by
  have hs' : ¬ (op ≠ .seed ∧ sField w ≠ 0) := fun ⟨hop, hne⟩ => hne (hs hop)
  have hn' : ¬ (op ≠ .gen ∧ nField w ≠ 0) := fun ⟨hop, hne⟩ => hne (hn hop)
  simp only [decode, hop, operationOfCode_operationCode]
  rw [if_neg (not_not.mpr hz), if_neg hs', if_neg hn']

/-- The operands of a word whose unused fields are 0 stand in its fields. -/
theorem selects_of_fields {w : CommandWord} {op : Operation} {i : Instr}
    (hs : op ≠ .seed → sField w = 0) (hn : op ≠ .gen → nField w = 0)
    (hi : selectInstr op (unitOfNumber (tField w)) (unitOfNumber (sField w)) (nField w).toNat = .ok i) :
    Selects op (unitOfNumber (tField w)) (unitOfNumber (sField w)) (nField w).toNat i :=
  selects_of_selectInstr hi (fun hop => by rw [hs hop]; rfl) (fun hop => by rw [hn hop]; rfl)

/-- A legal word is the word of the operation and operands that select its instruction. -/
theorem selects_of_decode {w : CommandWord} {i : Instr} (h : decode w = .ok i) :
    ∃ op t s n, Selects op t s n i ∧ n < 65536 ∧ operationWord op t s n = w := by
  obtain ⟨op, hop, hz, hs, hn, hi⟩ := decode_ok_fields h
  refine ⟨op, _, _, _, selects_of_fields hs hn hi, (nField w).isLt, ?_⟩
  rw [operationWord, unitNumber_unitOfNumber, unitNumber_unitOfNumber, BitVec.ofNat_toNat, BitVec.setWidth_eq, ← hop,
    ← hz, packFields_fields]

/-- The word of an operation with operands that fit decodes to what they select. -/
theorem decode_operationWord {op : Operation} {t s : UnitId} {n : Nat} {i : Instr} (h : Selects op t s n i)
    (hn : n < 65536) : decode (operationWord op t s n) = .ok i := by
  have hcount : (nField (operationWord op t s n)).toNat = n := by
    rw [operationWord, nField_packFields, BitVec.toNat_ofNat, Nat.mod_eq_of_lt hn]
  have hcode : opField (operationWord op t s n) = operationCode op := opField_packFields ..
  rw [decode_of_fields hcode (zField_packFields ..), hcount, operationWord, tField_packFields,
    sField_packFields, unitOfNumber_unitNumber, unitOfNumber_unitNumber]
  · exact h.selectInstr_eq
  · intro hop
    rw [operationWord, sField_packFields, h.source_eq hop]
    rfl
  · intro hop
    rw [operationWord, nField_packFields, h.count_eq hop]
    rfl

/-- Settles O2: the word of an instruction is that of its operation and operands, which select it again. -/
theorem decodeOfEncode : Obligations.DecodeOfEncode := by
  intro i hi
  obtain ⟨op, t, s, n, h⟩ := exists_selects i
  rw [h.encode_eq]
  exact decode_operationWord h (h.wellFormed_iff.mp hi)

/-- Settles O3: the operands of a legal word come from its fields, so they fit, and packed again they give the word. -/
theorem encodeOfDecode : Obligations.EncodeOfDecode := by
  intro w i hd
  obtain ⟨op, t, s, n, h, hn, hw⟩ := selects_of_decode hd
  exact ⟨h.wellFormed_iff.mpr hn, h.encode_eq.trans hw⟩

/-! ## Match and mask (R43) -/

theorem packFields_and (op op' : BitVec 4) (t t' s s' : BitVec 2) (z z' : BitVec 8) (n n' : BitVec 16) :
    packFields op t s z n &&& packFields op' t' s' z' n' =
      packFields (op &&& op') (t &&& t') (s &&& s') (z &&& z') (n &&& n') := by
  unfold packFields
  rw [BitVec.and_append, BitVec.and_append, BitVec.and_append, BitVec.and_append]

/-- Words are equal exactly when their five fields are. -/
theorem packFields_inj {op op' : BitVec 4} {t t' s s' : BitVec 2} {z z' : BitVec 8} {n n' : BitVec 16} :
    packFields op t s z n = packFields op' t' s' z' n' ↔ op = op' ∧ t = t' ∧ s = s' ∧ z = z' ∧ n = n' := by
  refine ⟨fun h => ⟨?_, ?_, ?_, ?_, ?_⟩, fun ⟨hop, ht, hs, hz, hn⟩ => by rw [hop, ht, hs, hz, hn]⟩
  · simpa only [opField_packFields] using congrArg opField h
  · simpa only [tField_packFields] using congrArg tField h
  · simpa only [sField_packFields] using congrArg sField h
  · simpa only [zField_packFields] using congrArg zField h
  · simpa only [nField_packFields] using congrArg nField h

/-- The mask of an operation's rows: every bit but those of the operand fields it uses. -/
def rowMask (op : Operation) : CommandWord :=
  packFields (BitVec.allOnes 4) (BitVec.allOnes 2) (if op = .seed then 0 else BitVec.allOnes 2) (BitVec.allOnes 8)
    (if op = .gen then 0 else BitVec.allOnes 16)

theorem Selects.tableRow_eq {op : Operation} {t s : UnitId} {n : Nat} {i : Instr} (h : Selects op t s n i) :
    tableRow i = (operationWord op t .sm64 0, rowMask op) := by
  cases h with
  | jump h => cases t <;> cases h <;> rfl
  | next | lds | rds | seed | gen | size => cases t <;> rfl

/-- What match and mask check of a word: its operation, its unit, and that the fields the operation does not use are 0. -/
theorem and_rowMask_eq_iff (w : CommandWord) (op : Operation) (t : UnitId) :
    w &&& rowMask op = operationWord op t .sm64 0 ↔
      opField w = operationCode op ∧ tField w = unitNumber t ∧ (op ≠ .seed → sField w = 0) ∧ zField w = 0 ∧
        (op ≠ .gen → nField w = 0) := by
  have masked {k : Nat} (p : Prop) [Decidable p] (b : BitVec k) :
      b &&& (if p then 0 else BitVec.allOnes k) = 0 ↔ (¬ p → b = 0) := by
    by_cases hp : p <;> simp [hp]
  conv_lhs => rw [← packFields_fields w]
  rw [rowMask, operationWord, packFields_and, packFields_inj]
  simp only [BitVec.and_allOnes]
  exact and_congr_right' (and_congr_right' (and_congr (masked _ _) (and_congr_right' (masked _ _))))

/-- Settles O4: a row checks of a word just what the decoder does, and the free fields are those of the encoding. -/
theorem matchAndMaskSelect : Obligations.MatchAndMaskSelect := by
  have selected (w : CommandWord) (i : Instr) (hd : decode w = .ok i) : w &&& (tableRow i).2 = (tableRow i).1 := by
    obtain ⟨op, hop, hz, hs, hn, hi⟩ := decode_ok_fields hd
    rw [(selects_of_fields hs hn hi).tableRow_eq, and_rowMask_eq_iff]
    exact ⟨hop, (unitNumber_unitOfNumber _).symm, hs, hz, hn⟩
  refine ⟨selected, ?_, ?_, ?_, ?_⟩
  · intro w i hw
    obtain ⟨op, t, s, n, h⟩ := exists_selects i
    rw [h.tableRow_eq, and_rowMask_eq_iff] at hw
    obtain ⟨hop, ht, hs, hz, hn⟩ := hw
    have hunit : unitOfNumber (tField w) = t := by rw [ht, unitOfNumber_unitNumber]
    obtain ⟨j, hj⟩ := h.exists_selectInstr (unitOfNumber (sField w)) (nField w).toNat
    rw [← hunit] at h hj
    have hrow : tableRow j = tableRow i := (selects_of_fields hs hn hj).tableRow_eq.trans h.tableRow_eq.symm
    exact ⟨j, (decode_of_fields hop hz hs hn).trans hj, hrow⟩
  · intro w t s hd
    have hw := (encodeOfDecode w _ hd).2
    rw [← hw, (Selects.seed t s).encode_eq]
    exact sField_packFields ..
  · intro w u n hd
    have ⟨hwf, hw⟩ := encodeOfDecode w _ hd
    have hn := (Selects.gen u n).wellFormed_iff.mp hwf
    rw [← hw, (Selects.gen u n).encode_eq, operationWord, ← nField, nField_packFields, BitVec.toNat_ofNat,
      Nat.mod_eq_of_lt hn]
  · intro w hnone
    cases hd : decode w with
    | ok i => exact absurd (selected w i hd) (hnone i)
    | error e => exact ⟨e, rfl⟩

/-! ## How many words are legal (R48) -/

/-- The four units (R1). -/
def units : Finset UnitId := {.sm64, .xs128, .xo128, .xs1024}

theorem mem_units (u : UnitId) : u ∈ units := by cases u <;> decide

/-- The instructions without a count: on each unit four operations, `JUMP` where there is one (R64), and `SEED` from each
of the four sources. -/
def countFreeInstrs : Finset Instr :=
  units.biUnion fun u =>
    {nextOf u, ldsOf u, rdsOf u, sizeQueryOf u} ∪ (jumpOf u).toFinset ∪ units.image (seedOf u)

theorem card_countFreeInstrs : countFreeInstrs.card = 35 := by decide

theorem wellFormed_of_mem_countFreeInstrs : ∀ i ∈ countFreeInstrs, i.wellFormed = true := by decide

theorem rowMask_ne_of_mem_countFreeInstrs : ∀ i ∈ countFreeInstrs, (tableRow i).2 ≠ rowMask .gen := by decide

/-- `GEN` on each unit with each count its field holds (R50). -/
def genInstrs : Finset Instr := (units ×ˢ Finset.range 65536).image fun p => genOf p.1 p.2

theorem mem_genInstrs {i : Instr} : i ∈ genInstrs ↔ ∃ u n, n < 65536 ∧ genOf u n = i := by
  simp [genInstrs, mem_units]

theorem card_genInstrs : genInstrs.card = 4 * 65536 := by
  have inj : Function.Injective fun p : UnitId × Nat => genOf p.1 p.2 := by
    rintro ⟨u, n⟩ ⟨v, m⟩ h
    cases u <;> cases v <;> cases h <;> rfl
  rw [genInstrs, Finset.card_image_of_injective _ inj, Finset.card_product, Finset.card_range]
  rfl

theorem mem_countFreeInstrs_or_gen (i : Instr) : i ∈ countFreeInstrs ∨ ∃ u n, genOf u n = i := by
  induction i using instr_cases_by_operation with
  | next u | lds u | rds u | size u => exact .inl (by cases u <;> decide)
  | jump u i hi => exact .inl (by cases u <;> cases hi <;> decide)
  | seed target source => exact .inl (by cases target <;> cases source <;> decide)
  | gen u n => exact .inr ⟨u, n, rfl⟩

/-- The two families are apart, since only the rows of `GEN` leave the count free. -/
theorem disjoint_countFreeInstrs_genInstrs : Disjoint countFreeInstrs genInstrs := by
  rw [Finset.disjoint_left]
  intro i hfree hgen
  obtain ⟨u, n, -, rfl⟩ := mem_genInstrs.mp hgen
  exact rowMask_ne_of_mem_countFreeInstrs _ hfree (congrArg Prod.snd (Selects.gen u n).tableRow_eq)

theorem wellFormed_iff_mem (i : Instr) : i.wellFormed = true ↔ i ∈ countFreeInstrs ∪ genInstrs := by
  rw [Finset.mem_union]
  rcases mem_countFreeInstrs_or_gen i with hfree | ⟨u, n, rfl⟩
  · exact iff_of_true (wellFormed_of_mem_countFreeInstrs i hfree) (.inl hfree)
  · rw [(Selects.gen u n).wellFormed_iff]
    refine ⟨fun hn => .inr (mem_genInstrs.mpr ⟨u, n, hn, rfl⟩), ?_⟩
    rintro (hfree | hgen)
    · exact (Selects.gen u n).wellFormed_iff.mp (wellFormed_of_mem_countFreeInstrs _ hfree)
    · obtain ⟨v, m, hm, h⟩ := mem_genInstrs.mp hgen
      exact (Selects.gen u n).wellFormed_iff.mp (h ▸ (Selects.gen v m).wellFormed_iff.mpr hm)

/-- The legal words are the words of the well-formed instructions. -/
theorem decode_eq_ok_iff {w : CommandWord} {i : Instr} : decode w = .ok i ↔ i.wellFormed = true ∧ encode i = w :=
  ⟨encodeOfDecode w i, fun ⟨hwf, hw⟩ => hw ▸ decodeOfEncode i hwf⟩

/-- Well-formed instructions have different words, since each decodes to its own. -/
theorem encode_injOn_wellFormed : Set.InjOn encode {i | i.wellFormed = true} := by
  intro i hi j hj h
  have : Except.ok i = Except.ok (ε := Illegal) j := by rw [← decodeOfEncode i hi, h, decodeOfEncode j hj]
  exact Except.ok.inj this

/-- Settles O5: `encode` is a bijection from the well-formed instructions to the legal words, and they are 35 without a
count and 4 times 65536 with one. -/
theorem legalWordCount : Obligations.LegalWordCount := by
  have himage : {w : CommandWord | ∃ i, decode w = .ok i} = encode '' {i | i.wellFormed = true} := by
    ext w
    simp only [decode_eq_ok_iff, Set.mem_ofPred_eq, Set.mem_image]
  have hfinite : {i : Instr | i.wellFormed = true} = ↑(countFreeInstrs ∪ genInstrs) := by
    ext i
    exact wellFormed_iff_mem i
  unfold Obligations.LegalWordCount
  rw [himage, encode_injOn_wellFormed.ncard_image, hfinite, Set.ncard_coe_finset,
    Finset.card_union_of_disjoint disjoint_countFreeInstrs_genInstrs, card_countFreeInstrs, card_genInstrs]

/-! ## Words written out, and steps on legal words -/

/-- Settles O1: each word is that of its instruction. -/
theorem wordsWrittenOutDecode : Obligations.WordsWrittenOutDecode :=
  ⟨decodeOfEncode .nextXo128 rfl, decodeOfEncode .jumpXs1024 rfl, decodeOfEncode .ldsXs128 rfl,
    decodeOfEncode .rdsXs1024 rfl, decodeOfEncode (.seedXs1024 .xo128) rfl, decodeOfEncode (.genXo128 3) rfl,
    decodeOfEncode .sizeSm64 rfl⟩

/-- Settles O6: the accepted command is the oldest one taken from the queue. -/
theorem stepRunsDecodedInstruction : Obligations.StepRunsDecodedInstruction := by
  intro s c rest i hin hd
  rw [step_command hin, hd]
  simp only [acceptCommand, dropInput, hin, List.tail_cons]

/-! ## The shape of responses (R45) -/

theorem wellShaped_error (st : Status) : (⟨st, []⟩ : Response).wellShaped = true := by simp [Response.wellShaped]

theorem wellShaped_ok {data : List Word64} (h : data.length < 65536) :
    (⟨.ok, data⟩ : Response).wellShaped = true := by simp [Response.wellShaped, h]

/-- A well-formed instruction answers at most 65535 words: only `GEN` can answer more than 17. -/
theorem responseWords_lt {i : Instr} (h : i.wellFormed = true) : responseWords i < 65536 := by
  cases i with
  | genSm64 | genXs128 | genXo128 | genXs1024 => exact of_decide_eq_true h
  | _ => simp [responseWords]

/-- Answering with a well-shaped response ends in a quiescent state. -/
theorem quiescent_answer {s : State} {st : Status} {data : List Word64} (h : ∀ r ∈ s.responses, r.wellShaped = true)
    (hnew : (⟨st, data⟩ : Response).wellShaped = true) : (s.answer st data).Quiescent := by
  refine ⟨rfl, fun r hr => ?_⟩
  rcases List.mem_append.mp hr with hr | hr
  · exact h r hr
  · exact List.mem_singleton.mp hr ▸ hnew

/-- Settles O18, by the input the step takes: a command is answered with an error and no data, or with as many words as its
decoded, so well-formed, instruction gives; the other steps give no response. -/
theorem quiescenceIsKept : Obligations.QuiescenceIsKept := by
  intro s t hs h
  obtain ⟨hpayload, hshaped⟩ := hs
  cases hin : s.input with
  | nil =>
    cases (step_idle hin).symm.trans h
    exact ⟨hpayload, hshaped⟩
  | cons x rest =>
    cases x with
    | reset =>
      cases (step_reset hin).symm.trans h
      exact ⟨rfl, hshaped⟩
    | resetDuring c =>
      cases (step_resetDuring hin).symm.trans h
      exact ⟨rfl, hshaped⟩
    | command c =>
      rcases step_command_cases hin h with ⟨st, -, rfl⟩ | ⟨i, hd, -, -, rfl⟩
      · exact quiescent_answer hshaped (wellShaped_error st)
      · refine quiescent_answer (by simpa using hshaped) (wellShaped_ok ?_)
        rw [effectOf_length]
        exact responseWords_lt (encodeOfDecode c.word i hd).1

end Sys2Proof.Machine

/-! # One instruction's rule from its row of the opcode map (R40 to R43, R47) -/

namespace Sys2Proof.Machine

open Sys2Proof Sys2Proof.Claims

/-! ## Reserved bits -/

theorem operationCode_inj {op op' : Operation} (h : operationCode op = operationCode op') : op = op' :=
  Option.some.inj (by rw [← operationOfCode_operationCode, h, operationOfCode_operationCode])

/-- Bits 31:26 of a word hold its operation code. -/
theorem opField_of_high_bits {w w' : CommandWord} (h : w.extractLsb' 26 6 = w'.extractLsb' 26 6) :
    opField w = opField w' := by
  have hop (v : CommandWord) : opField v = (v.extractLsb' 26 6).extractLsb' 2 4 := by
    ext j hj
    simp [opField, show 2 + j < 6 by omega, ← Nat.add_assoc]
  rw [hop, hop, h]

theorem operationWord_low_bits (op : Operation) (t : UnitId) : operationWord op t .sm64 0 &&& 0x03FFFFFF = 0 := by
  cases op <;> cases t <;> rfl

/-- A legal word has no bit set among bits 25:0 outside the operand fields of its operation. -/
theorem reserved_bits_of_decode {w : CommandWord} {i : Instr} {op : Operation} (hd : decode w = .ok i)
    (hop : opField w = operationCode op) : w &&& (rowMask op &&& 0x03FFFFFF) = 0 := by
  obtain ⟨op', hop', hz, hs, hn, -⟩ := decode_ok_fields hd
  obtain rfl := operationCode_inj (hop.symm.trans hop')
  have hrow : w &&& rowMask op = operationWord op (unitOfNumber (tField w)) .sm64 0 :=
    (and_rowMask_eq_iff w op _).mpr ⟨hop, (unitNumber_unitOfNumber _).symm, hs, hz, hn⟩
  rw [← BitVec.and_assoc, hrow, operationWord_low_bits]

theorem step_of_illegal {s : State} {c : Command} {rest : List Input} {e : Illegal}
    (hin : s.input = .command c :: rest) (hd : decode c.word = .error e) :
    step s = .next (answered { s with input := rest } .errIllegal []) := by
  rw [step_command hin, hd]
  simp only [acceptCommand, dropInput, State.answer, answered, hin, List.tail_cons]

/-- Setting a reserved bit makes the word of an operation illegal. -/
theorem refusesReserved_operationWord (op : Operation) (t s : UnitId) (n : Nat) :
    RefusesReserved (operationWord op t s n) (rowMask op &&& 0x03FFFFFF) := by
  intro w hhigh hreserved p rest st hin
  have hop : opField w = operationCode op := (opField_of_high_bits hhigh).trans (opField_packFields ..)
  cases hd : decode w with
  | ok i => exact absurd (reserved_bits_of_decode hd hop) hreserved
  | error e => exact step_of_illegal hin hd

/-! ## The two forms of a rule -/

section
variable {op : Operation} {t s : UnitId} {n : Nat} {i : Instr} {word reserved : CommandWord}
  {effect : State → State} {data : State → List Word64}

/-- The rule of an instruction that needs no constructed unit: its row of the opcode map, and its effect where the payload
has its length. -/
theorem followsRuleAlways_of_selects {k : Nat} (hsel : Selects op t s n i) (hfits : n < 65536)
    (hword : operationWord op t s n = word) (hreserved : rowMask op &&& 0x03FFFFFF = reserved)
    (hneeded : neededUnit i = none) (hk : payloadWords i = k)
    (heffect : ∀ st : State, st.payload.length = k → effectOf i st = (effect st, data st)) :
    FollowsRuleAlways i word reserved k effect data := by
  subst hword hreserved hk
  refine ⟨decode_operationWord hsel hfits, refusesReserved_operationWord op t s n, fun st => ⟨exec_of_wrong_payload,
    fun hp => ?_⟩⟩
  rw [exec_of_checked hp (by simp [hneeded]), heffect st hp]
  rfl

theorem payloadWords_of_neededUnit {u : UnitId} (h : neededUnit i = some u) : payloadWords i = 0 := by
  cases i with
  | ldsSm64 | ldsXs128 | ldsXo128 | ldsXs1024 => cases h
  | _ => rfl

/-- The rule of an instruction that reads unit `u`: its row of the opcode map, and its effect. -/
theorem followsRule_of_selects {u : UnitId} (hsel : Selects op t s n i) (hfits : n < 65536)
    (hword : operationWord op t s n = word) (hreserved : rowMask op &&& 0x03FFFFFF = reserved)
    (hneeded : neededUnit i = some u) (heffect : ∀ st, effectOf i st = (effect st, data st)) :
    FollowsRule i word reserved (fun st => st.valid.get u) effect data := by
  subst hword hreserved
  have hpayload := payloadWords_of_neededUnit hneeded
  refine ⟨decode_operationWord hsel hfits, refusesReserved_operationWord op t s n, fun st => ⟨fun hp => ?_,
    fun hp hv => ?_, fun hp hv => ?_⟩⟩
  · exact exec_of_wrong_payload (hpayload ▸ hp)
  · exact exec_of_unconstructed (hp.trans hpayload.symm) hneeded hv
  · rw [exec_of_needed hpayload hneeded (List.length_eq_zero_iff.mp hp) hv, heffect]
    rfl

end

/-! ## `SIZE`, `LDS` and `RDS` of every unit -/

/-- Settles O25: four rows of the opcode map, with no effect and the word count as data. -/
theorem sizeRule : Obligations.SizeRule :=
  ⟨followsRuleAlways_of_selects (.size .sm64) (by decide) rfl rfl rfl rfl fun _ _ => rfl,
    followsRuleAlways_of_selects (.size .xs128) (by decide) rfl rfl rfl rfl fun _ _ => rfl,
    followsRuleAlways_of_selects (.size .xo128) (by decide) rfl rfl rfl rfl fun _ _ => rfl,
    followsRuleAlways_of_selects (.size .xs1024) (by decide) rfl rfl rfl rfl fun _ _ => rfl⟩

section
variable {words : List Word64}

theorem construct_sm64_of_length (h : words.length = 1) (s : State) : construct .sm64 words s =
    { s with sm := ⟨words.getD 0 0⟩, valid := { s.valid with sm64 := true } } := by
  obtain ⟨w, rfl⟩ := List.length_eq_one_iff.mp h
  rfl

theorem construct_xs128_of_length (h : words.length = 2) (s : State) : construct .xs128 words s =
    { s with xs128 := ⟨words.getD 0 0, words.getD 1 0⟩, valid := { s.valid with xs128 := true } } := by
  obtain ⟨v, w, rfl⟩ := List.length_eq_two.mp h
  rfl

theorem construct_xo128_of_length (h : words.length = 2) (s : State) : construct .xo128 words s =
    { s with xo128 := ⟨words.getD 0 0, words.getD 1 0⟩, valid := { s.valid with xo128 := true } } := by
  obtain ⟨v, w, rfl⟩ := List.length_eq_two.mp h
  rfl

theorem construct_xs1024_of_length (h : words.length = 16) (s : State) : construct .xs1024 words s =
    { s with xs1024 := ⟨Vector.ofFn fun j : Fin 16 => words.getD j.val 0, 0⟩
             valid := { s.valid with xs1024 := true } } := by
  have hvec : (⟨words.toArray, h⟩ : Vector Word64 16) = Vector.ofFn fun j : Fin 16 => words.getD j.val 0 := by
    apply Vector.ext
    intro j hj
    have hlt : j < words.length := h ▸ hj
    simp [hlt]
  simp only [construct, dif_pos h, hvec, ValidFlags.mark]

end

/-- Settles O26: four rows of the opcode map, with the construction from the payload as effect. -/
theorem ldsRule : Obligations.LdsRule :=
  ⟨followsRuleAlways_of_selects (.lds .sm64) (by decide) rfl rfl rfl rfl fun st hp =>
      congrArg (·, []) (construct_sm64_of_length hp st),
    followsRuleAlways_of_selects (.lds .xs128) (by decide) rfl rfl rfl rfl fun st hp =>
      congrArg (·, []) (construct_xs128_of_length hp st),
    followsRuleAlways_of_selects (.lds .xo128) (by decide) rfl rfl rfl rfl fun st hp =>
      congrArg (·, []) (construct_xo128_of_length hp st),
    followsRuleAlways_of_selects (.lds .xs1024) (by decide) rfl rfl rfl rfl fun st hp =>
      congrArg (·, []) (construct_xs1024_of_length hp st)⟩

/-- The words of XS1024 by index, then the cursor as a number (R92). -/
theorem readOut_xs1024 (s : State) : readOut .xs1024 s =
    (List.finRange 16).map (fun j => s.xs1024.s[j]) ++ [BitVec.ofNat 64 s.xs1024.p.toNat] := by
  have hwords : s.xs1024.s.toList = (List.finRange 16).map (fun j => s.xs1024.s[j]) := by
    apply List.ext_getElem <;> simp
  rw [readOut, hwords, BitVec.ofNat_toNat]

/-- Settles O27: four rows of the opcode map, with no effect and the read-out as data. -/
theorem rdsRule : Obligations.RdsRule :=
  ⟨followsRule_of_selects (.rds .sm64) (by decide) rfl rfl rfl fun _ => rfl,
    followsRule_of_selects (.rds .xs128) (by decide) rfl rfl rfl fun _ => rfl,
    followsRule_of_selects (.rds .xo128) (by decide) rfl rfl rfl fun _ => rfl,
    followsRule_of_selects (.rds .xs1024) (by decide) rfl rfl rfl fun st => congrArg (st, ·) (readOut_xs1024 st)⟩

end Sys2Proof.Machine

/-! # The unit SM64 (R63, R65) -/

namespace Sys2Proof.Machine

open Sys2Proof Sys2Proof.Claims

/-! ## One `Next` -/

theorem mixSm64_eq_mixer (z : Word64) : mixSm64 z = mixer z := by
  simp only [mixSm64, mixer, mul64_eq_mul, shr64, mix1, mix2, BitVec.mul_comm]

/-- `Next` of SM64 in the library's arithmetic: the mixer of the stepped counter, and that counter. -/
theorem nextSm64_eq (u : Sm64Regs) : nextSm64 u = (mixer (u.x + gamma), ⟨u.x + gamma⟩) := by
  simp only [nextSm64, add64_eq_add, mixSm64_eq_mixer]

/-- Settles O28: its row of the opcode map, with one `Next` of SM64 as effect. -/
theorem nextSm64Rule : Obligations.NextSm64Rule :=
  followsRule_of_selects (.next .sm64) (by decide) rfl rfl rfl fun st => by
    simp only [nextOf, effectOf, nextUnit, nextSm64_eq, gamma, BitVec.add_comm]

/-! ## `n` steps -/

/-- A run of `n` draws is the outputs 0 to `n - 1`, and the state after `n` steps. -/
theorem draw_eq_outputs (u : UnitId) (n : Nat) (s : State) :
    draw u n s = ((List.range n).map fun k => output u k s, afterNexts u n s) := by
  induction n generalizing s with
  | zero => rfl
  | succ n ih =>
    rw [draw_succ, ih, List.range_succ_eq_map, List.map_cons, List.map_map]
    rfl

theorem add_succ_mul (x g : Word64) (k : Nat) :
    x + BitVec.ofNat 64 (k + 1) * g = x + BitVec.ofNat 64 k * g + g := by
  rw [BitVec.ofNat_add, BitVec.add_mul, BitVec.one_mul, BitVec.add_assoc]

/-- `k` steps add `k` times `GAMMA` to the counter. -/
theorem iterate_nextSm64 (k : Nat) (x : Word64) :
    (fun u : Sm64Regs => (nextSm64 u).2)^[k] ⟨x⟩ = ⟨x + BitVec.ofNat 64 k * gamma⟩ := by
  induction k with
  | zero => simp
  | succ k ih => rw [Function.iterate_succ_apply', ih, nextSm64_eq, add_succ_mul]

theorem afterNexts_sm64 (n : Nat) (s : State) :
    afterNexts .sm64 n s = { s with sm := (fun u : Sm64Regs => (nextSm64 u).2)^[n] s.sm } := by
  induction n with
  | zero => rfl
  | succ n ih =>
    rw [afterNexts, Function.iterate_succ_apply', ← afterNexts, ih, Function.iterate_succ_apply']
    rfl

/-- The counter after `n` steps (R65 item 1), all other state as it was. -/
theorem afterNexts_sm64_counter (n : Nat) (s : State) :
    afterNexts .sm64 n s = { s with sm := ⟨s.sm.x + BitVec.ofNat 64 n * gamma⟩ } := by
  rw [afterNexts_sm64, iterate_nextSm64]

theorem output_sm64 (k : Nat) (s : State) :
    output .sm64 k s = mixer (s.sm.x + BitVec.ofNat 64 (k + 1) * gamma) := by
  rw [output, afterNexts_sm64_counter, nextUnit, nextSm64_eq, add_succ_mul]

/-- Settles O37: `GEN` is the run of `n` draws, whose outputs and last state are known in closed form. -/
theorem sm64CountsByGamma : Obligations.Sm64CountsByGamma := by
  intro n s hp hv
  rw [exec_of_needed (u := .sm64) rfl rfl hp hv]
  simp only [effectOf, draw_eq_outputs, afterNexts_sm64_counter, output_sm64]
  rfl

/-- The inverse of `GAMMA`, an odd number, modulo 2^64; `gamma_mul_gammaInverse` says that it is. -/
def gammaInverse : Word64 := 0xF1DE83E19937733D

theorem gamma_mul_gammaInverse : gamma * gammaInverse = 1 := by decide

/-- A multiple of `GAMMA` determines its factor. -/
theorem mul_gamma_eq_iff (a b : Word64) : a * gamma = b ↔ a = b * gammaInverse := by
  constructor
  · rintro rfl
    rw [mul_assoc, gamma_mul_gammaInverse, mul_one]
  · rintro rfl
    rw [mul_assoc, mul_comm gammaInverse, gamma_mul_gammaInverse, mul_one]

/-- Settles O38: the number of steps from `x` to `y` is `(y - x)` divided by `GAMMA`, modulo 2^64. -/
theorem sm64VisitsEveryWord : Obligations.Sm64VisitsEveryWord := by
  intro x y
  have hreach (k : Nat) : ((fun u : Sm64Regs => (nextSm64 u).2)^[k] ⟨x⟩).x = y ↔
      BitVec.ofNat 64 k = (y - x) * gammaInverse := by
    rw [iterate_nextSm64, ← mul_gamma_eq_iff, eq_sub_iff_add_eq']
  refine ⟨((y - x) * gammaInverse).toNat, ⟨BitVec.isLt _, (hreach _).mpr ?_⟩, ?_⟩
  · rw [BitVec.ofNat_toNat, BitVec.setWidth_eq]
  · rintro k ⟨hk, hy⟩
    rw [← (hreach k).mp hy, BitVec.toNat_ofNat, Nat.mod_eq_of_lt hk]

end Sys2Proof.Machine

/-! # The loop of `JUMP`, bit by bit and word by word (R74, R84, R94) -/

namespace Sys2Proof.Machine

open Sys2Proof Sys2Proof.Claims

/-- The bits the loop takes, by their numbers (R74 reading note 2). -/
theorem polynomialBits_eq_map (words : List Word64) :
    polynomialBits words = (List.range (64 * words.length)).map (polynomialBit words) := by
  induction words with
  | nil => rfl
  | cons w ws ih =>
    have hhead : (List.range 64).map (polynomialBit (w :: ws)) = (List.range 64).map w.getLsbD :=
      List.map_congr_left fun n hn => by
        have hlt : n < 64 := List.mem_range.mp hn
        simp [polynomialBit, Nat.div_eq_of_lt hlt, Nat.mod_eq_of_lt hlt]
    have htail (n : Nat) : polynomialBit (w :: ws) (64 + n) = polynomialBit ws n := by
      simp [polynomialBit, Nat.add_div_left, Nat.add_mod_left]
    rw [List.length_cons, Nat.mul_succ, Nat.add_comm, List.range_add, List.map_append, List.map_map, hhead]
    simp only [Function.comp_def, htail, ← ih]
    rfl

/-- One word of what the loop leaves: the XOR of that word over the states reached after `n` steps, for the bits `n` set. -/
theorem jumpLoop_word {σ α : Type} {xorInto : α → α → α} {word : α → Word64}
    (hxor : ∀ a b, word (xorInto a b) = word a ^^^ word b) {zero : α} (hzero : word zero = 0) (view : σ → α)
    (advance : σ → σ) (bit : Nat → Bool) (count : Nat) (u : σ) :
    word (jumpLoop xorInto view advance ((List.range count).map bit) zero u).1 =
      xorSelected bit count fun n => word (view (advance^[n] u)) := by
  induction count with
  | zero => exact hzero
  | succ n ih =>
    rw [xorSelected, List.range_succ, List.foldl_append, ← xorSelected, ← ih, List.map_append, jumpLoop_append,
      jumpLoop_state, List.length_map, List.length_range]
    exact (apply_ite word _ _ _).trans (by rw [hxor]; rfl)

/-- The loop may run on the views themselves where the view after a step depends on the view before it alone. -/
theorem jumpLoop_of_view {σ α : Type} {xorInto : α → α → α} {view : σ → α} {advance : σ → σ}
    {advanceView : α → α} (hview : ∀ u, view (advance u) = advanceView (view u)) (bits : List Bool) (acc : α) (u : σ) :
    (jumpLoop xorInto view advance bits acc u).1 = (jumpLoop xorInto id advanceView bits acc (view u)).1 := by
  induction bits generalizing acc u with
  | nil => rfl
  | cons b bs ih => rw [jumpLoop, jumpLoop, ih, hview]; rfl

end Sys2Proof.Machine

/-! # Units whose step is linear over XOR, and polynomials in the step (R74, R75) -/

namespace Sys2Proof.Machine

open Sys2Proof Sys2Proof.Claims

/-- A state space with its XOR and a step that respects it: what R75 calls a linear map over GF(2). -/
structure LinearUnit (σ : Type) where
  zero : σ
  xor : σ → σ → σ
  advance : σ → σ
  xor_assoc : ∀ a b c, xor (xor a b) c = xor a (xor b c)
  xor_comm : ∀ a b, xor a b = xor b a
  xor_zero : ∀ a, xor a zero = a
  xor_self : ∀ a, xor a a = zero
  advance_xor : ∀ a b, advance (xor a b) = xor (advance a) (advance b)

namespace LinearUnit

section
variable {σ τ : Type} (M : LinearUnit σ) (N : LinearUnit τ)

theorem zero_xor (a : σ) : M.xor M.zero a = a := by rw [M.xor_comm, M.xor_zero]

theorem xor_xor_xor_comm (a b c d : σ) : M.xor (M.xor a b) (M.xor c d) = M.xor (M.xor a c) (M.xor b d) := by
  rw [M.xor_assoc, M.xor_assoc, ← M.xor_assoc b, M.xor_comm b c, M.xor_assoc c]

/-- A map that respects XOR takes zero to zero. -/
theorem map_zero {h : σ → τ} (hxor : ∀ a b, h (M.xor a b) = N.xor (h a) (h b)) : h M.zero = N.zero := by
  rw [← M.xor_self M.zero, hxor, N.xor_self]

theorem advance_zero : M.advance M.zero = M.zero := M.map_zero M M.advance_xor

/-! ## A polynomial in the step, given by its bits, applied to a state -/

/-- The XOR of the states reached after `n` steps, over the `n` whose bit is 1: the loop of `JUMP` from an empty accumulator. -/
def applyBits (bits : List Bool) (u : σ) : σ := (jumpLoop M.xor id M.advance bits M.zero u).1

/-- What the loop adds to its accumulator does not depend on it. -/
theorem jumpLoop_eq_xor (bits : List Bool) (acc u : σ) :
    (jumpLoop M.xor id M.advance bits acc u).1 = M.xor acc (M.applyBits bits u) := by
  induction bits generalizing acc u with
  | nil => exact (M.xor_zero acc).symm
  | cons b bs ih =>
    rw [applyBits, jumpLoop, jumpLoop, ih, ih, ← M.xor_assoc]
    cases b
    · simp [M.xor_zero]
    · simp [M.zero_xor]

theorem applyBits_cons (b : Bool) (bs : List Bool) (u : σ) :
    M.applyBits (b :: bs) u = M.xor (if b then u else M.zero) (M.applyBits bs (M.advance u)) := by
  rw [applyBits, jumpLoop, jumpLoop_eq_xor, id, M.zero_xor]

theorem applyBits_append (as bs : List Bool) (u : σ) :
    M.applyBits (as ++ bs) u = M.xor (M.applyBits as u) (M.applyBits bs (M.advance^[as.length] u)) := by
  rw [applyBits, jumpLoop_append, jumpLoop_eq_xor, jumpLoop_state]
  rfl

/-- A map between linear units that respects XOR and the step respects every polynomial in the step. -/
theorem map_applyBits {h : σ → τ} (hxor : ∀ a b, h (M.xor a b) = N.xor (h a) (h b))
    (hadvance : ∀ a, h (M.advance a) = N.advance (h a)) (bits : List Bool) (u : σ) :
    h (M.applyBits bits u) = N.applyBits bits (h u) := by
  induction bits generalizing u with
  | nil => exact M.map_zero N hxor
  | cons b bs ih => rw [applyBits_cons, applyBits_cons, hxor, ih, hadvance, apply_ite h, M.map_zero N hxor]

/-- A polynomial in the step commutes with the step. -/
theorem applyBits_advance (bits : List Bool) (u : σ) :
    M.applyBits bits (M.advance u) = M.advance (M.applyBits bits u) :=
  (M.map_applyBits M M.advance_xor (fun _ => rfl) bits u).symm

theorem applyBits_xor (bits : List Bool) (u v : σ) :
    M.applyBits bits (M.xor u v) = M.xor (M.applyBits bits u) (M.applyBits bits v) := by
  induction bits generalizing u v with
  | nil => exact (M.xor_self M.zero).symm
  | cons b bs ih =>
    rw [applyBits_cons, applyBits_cons, applyBits_cons, M.advance_xor, ih, xor_xor_xor_comm]
    cases b
    · simp [M.xor_self]
    · simp

theorem applyBits_zero (bits : List Bool) : M.applyBits bits M.zero = M.zero :=
  M.map_zero M (M.applyBits_xor bits)

theorem iterate_advance_xor (n : Nat) (u v : σ) :
    M.advance^[n] (M.xor u v) = M.xor (M.advance^[n] u) (M.advance^[n] v) := by
  induction n generalizing u v with
  | zero => rfl
  | succ n ih => rw [Function.iterate_succ_apply, M.advance_xor, ih]; rfl

/-- An injective linear step never leads to zero from elsewhere. -/
theorem iterate_advance_ne_zero (h : Function.Injective M.advance) (k : Nat) {u : σ} (hu : u ≠ M.zero) :
    M.advance^[k] u ≠ M.zero := by
  rw [← Function.iterate_fixed M.advance_zero k]
  exact (h.iterate k).ne hu

/-- Polynomials add by the XOR of their bits. -/
theorem applyBits_map_xor {ι : Type} (f g : ι → Bool) (l : List ι) (u : σ) :
    M.applyBits (l.map fun i => f i ^^ g i) u = M.xor (M.applyBits (l.map f) u) (M.applyBits (l.map g) u) := by
  induction l generalizing u with
  | nil => exact (M.xor_self M.zero).symm
  | cons i l ih =>
    rw [List.map_cons, List.map_cons, List.map_cons, applyBits_cons, applyBits_cons, applyBits_cons, ih, xor_xor_xor_comm]
    cases f i <;> cases g i <;> simp [M.xor_zero, M.zero_xor, M.xor_self]

theorem applyBits_map_false {ι : Type} (l : List ι) (u : σ) : M.applyBits (l.map fun _ => false) u = M.zero := by
  induction l generalizing u with
  | nil => rfl
  | cons i l ih => rw [List.map_cons, applyBits_cons, ih]; exact M.xor_zero _

end

/-! ## Polynomials of degree below `n` as bit vectors -/

/-- The bits of a polynomial, that of the constant term first. -/
def bitsOf {n : Nat} (p : BitVec n) : List Bool := (List.range n).map p.getLsbD

section
variable {σ : Type} (M : LinearUnit σ)

/-- The polynomial `p` in the step, applied to `u`. -/
def apply {n : Nat} (p : BitVec n) (u : σ) : σ := M.applyBits (bitsOf p) u

theorem apply_xor {n : Nat} (p q : BitVec n) (u : σ) : M.apply (p ^^^ q) u = M.xor (M.apply p u) (M.apply q u) := by
  simp only [apply, bitsOf, ← applyBits_map_xor, ← BitVec.getLsbD_xor]

theorem apply_advance {n : Nat} (p : BitVec n) (u : σ) : M.apply p (M.advance u) = M.advance (M.apply p u) :=
  M.applyBits_advance (bitsOf p) u

theorem apply_zero {n : Nat} (u : σ) : M.apply (0 : BitVec n) u = M.zero := by
  have hbits : bitsOf (0 : BitVec n) = (List.range n).map fun _ => false := List.map_congr_left fun i _ => by simp
  rw [apply, hbits, applyBits_map_false]

theorem apply_one {n : Nat} (u : σ) : M.apply (1 : BitVec (n + 1)) u = u := by
  have hbits : bitsOf (1 : BitVec (n + 1)) = true :: (List.range n).map fun _ => false := by
    simp [bitsOf, List.range_succ_eq_map, Function.comp_def]
  rw [apply, hbits, applyBits_cons, applyBits_map_false]
  exact M.xor_zero u

end

/-! ## Polynomials modulo `x^n + c`, where `x^n` and `c` act alike -/

/-- `x` times the polynomial `a`, modulo `x^n + c`. -/
def timesX {n : Nat} (c a : BitVec n) : BitVec n := (a <<< 1) ^^^ (if a.getLsbD (n - 1) then c else 0)

/-- The polynomials modulo `x^n + c` are a linear unit themselves, with the multiplication by `x` as step. -/
def residues {n : Nat} (c : BitVec n) : LinearUnit (BitVec n) where
  zero := 0
  xor a b := a ^^^ b
  advance := timesX c
  xor_assoc := BitVec.xor_assoc
  xor_comm := BitVec.xor_comm
  xor_zero _ := BitVec.xor_zero
  xor_self _ := BitVec.xor_self
  advance_xor a b := by
    have hcarry : (if (a ^^^ b).getLsbD (n - 1) then c else 0) =
        (if a.getLsbD (n - 1) then c else 0) ^^^ (if b.getLsbD (n - 1) then c else 0) := by
      rw [BitVec.getLsbD_xor]
      cases a.getLsbD (n - 1) <;> cases b.getLsbD (n - 1) <;> simp
    rw [timesX, timesX, timesX, BitVec.shiftLeft_xor_distrib, hcarry]
    ac_rfl

/-- The square of `a` modulo `x^n + c`: the polynomial `a` in the multiplication by `x`, applied to `a`. -/
def square {n : Nat} (c a : BitVec n) : BitVec n := (residues c).apply a a

/-- `u` does not tell `x^n` from `c`: `n` steps take it where the polynomial `c` in the step takes it. -/
def Reduces {σ : Type} (M : LinearUnit σ) {n : Nat} (c : BitVec n) (u : σ) : Prop := M.advance^[n] u = M.apply c u

section
variable {σ : Type} {M : LinearUnit σ} {n : Nat} {c : BitVec n}

theorem Reduces.xor {u v : σ} (hu : M.Reduces c u) (hv : M.Reduces c v) : M.Reduces c (M.xor u v) := by
  rw [Reduces, iterate_advance_xor, hu, hv, apply, apply, apply, applyBits_xor]

theorem Reduces.advance {u : σ} (hu : M.Reduces c u) : M.Reduces c (M.advance u) := by
  rw [Reduces, Function.Commute.iterate_self M.advance n u, hu, apply_advance]

theorem reduces_zero : M.Reduces c M.zero := by
  rw [Reduces, Function.iterate_fixed M.advance_zero, apply, applyBits_zero]

end

section
variable {σ : Type} {M : LinearUnit σ} {n : Nat} {c : BitVec (n + 1)}

/-- Multiplying the polynomial by `x` is one more step. -/
theorem apply_timesX {u : σ} (hc : M.Reduces c u) (a : BitVec (n + 1)) :
    M.apply (timesX c a) u = M.advance (M.apply a u) := by
  have hshift : bitsOf (a <<< 1) = false :: (List.range n).map a.getLsbD := by
    rw [bitsOf, List.range_succ_eq_map, List.map_cons, List.map_map]
    refine congrArg₂ _ (by simp) (List.map_congr_left fun i hi => ?_)
    have hlt : i < n := List.mem_range.mp hi
    simp [hlt, BitVec.getLsbD_eq_getElem (show i < n + 1 by omega)]
  have hbits : bitsOf a = (List.range n).map a.getLsbD ++ [a.getLsbD n] := by
    rw [bitsOf, List.range_succ, List.map_append]; rfl
  have hlow : M.apply (a <<< 1) u = M.applyBits ((List.range n).map a.getLsbD) (M.advance u) := by
    rw [apply, hshift, applyBits_cons]
    exact M.zero_xor _
  have htop : M.apply (if a.getLsbD n then c else 0) u =
      M.applyBits [a.getLsbD n] (M.advance^[n] (M.advance u)) := by
    rw [← Function.iterate_succ_apply, hc, applyBits_cons]
    cases a.getLsbD n
    · exact (M.apply_zero u).trans (M.xor_zero _).symm
    · exact (M.xor_zero _).symm
  rw [timesX, apply_xor, Nat.add_sub_cancel, hlow, htop, ← apply_advance, apply, hbits, applyBits_append,
    List.length_map, List.length_range]

/-- The square of a polynomial acts as the polynomial twice: `b ↦ b(T) u` takes the multiplication by `x` to the step `T`. -/
theorem apply_square {u : σ} (hc : M.Reduces c u) (a : BitVec (n + 1)) : M.apply (square c a) u = M.apply a (M.apply a u) :=
  (residues c).map_applyBits M (h := fun b => M.apply b u) (fun p q => M.apply_xor p q u) (apply_timesX hc) (bitsOf a) a

/-- Squaring the polynomial `x` `k` times gives one that acts as `2^k` steps. -/
theorem apply_iterate_square (hc : ∀ u, M.Reduces c u) (k : Nat) (u : σ) :
    M.apply ((square c)^[k] (timesX c 1)) u = M.advance^[2 ^ k] u := by
  induction k generalizing u with
  | zero => rw [Function.iterate_zero, id, apply_timesX (hc u), apply_one]; rfl
  | succ k ih =>
    rw [Function.iterate_succ_apply', apply_square (hc u), ih, ih, ← Function.iterate_add_apply, pow_succ, mul_two]

end

end LinearUnit

end Sys2Proof.Machine

/-! # The words of the xorshift units: shifts, rotations and XOR (R7, R73, R83, R93) -/

namespace Sys2Proof.Machine

open Sys2Proof Sys2Proof.Claims

/-- XOR with the own left shift: `x ^= x << k`. -/
def xorShl (k : Nat) (a : Word64) : Word64 := a ^^^ shl64 a k

/-- XOR with the own right shift: `x ^= x >> k`. -/
def xorShr (k : Nat) (a : Word64) : Word64 := a ^^^ shr64 a k

/-- The four terms of the new word of XS128 and of XS1024, gathered by the word they come from (R73, R93). -/
theorem xor_regroup (a b a' b' : Word64) : a ^^^ b ^^^ a' ^^^ b' = (a ^^^ a') ^^^ (b ^^^ b') := by ac_rfl

/-! ## They respect XOR -/

section
variable (k : Nat) (a b : Word64)

theorem shl64_xor : shl64 (a ^^^ b) k = shl64 a k ^^^ shl64 b k := BitVec.shiftLeft_xor_distrib a b k

theorem shr64_xor : shr64 (a ^^^ b) k = shr64 a k ^^^ shr64 b k := BitVec.ushiftRight_xor_distrib a b k

/-- The two halves of a rotation have no bit in common, so they may be joined by XOR. -/
theorem rotl64_eq_xor : rotl64 a k = shl64 a k ^^^ shr64 a (64 - k) := by
  ext i hi
  rcases Nat.lt_or_ge i k with h | h
  · simp [rotl64, shl64, shr64, h]
  · simp [rotl64, shl64, shr64, show 64 ≤ 64 - k + i by omega]

theorem rotl64_xor : rotl64 (a ^^^ b) k = rotl64 a k ^^^ rotl64 b k := by
  rw [rotl64_eq_xor, rotl64_eq_xor, rotl64_eq_xor, shl64_xor, shr64_xor]
  ac_rfl

theorem xorShl_xor : xorShl k (a ^^^ b) = xorShl k a ^^^ xorShl k b := by
  rw [xorShl, xorShl, xorShl, shl64_xor]
  ac_rfl

theorem xorShr_xor : xorShr k (a ^^^ b) = xorShr k a ^^^ xorShr k b := by
  rw [xorShr, xorShr, xorShr, shr64_xor]
  ac_rfl

end

/-! ## They can be undone -/

section
variable {k : Nat}

/-- A map of words that respects XOR and sends no other word to zero is a bijection. -/
theorem bijective_of_xor {f : Word64 → Word64} (hxor : ∀ a b, f (a ^^^ b) = f a ^^^ f b)
    (hzero : ∀ a, f a = 0 → a = 0) : Function.Bijective f := by
  refine Finite.injective_iff_bijective.mp fun a b hab => BitVec.xor_eq_zero_iff.mp (hzero _ ?_)
  rw [hxor, hab]
  exact BitVec.xor_self

/-- A word that equals its own shift is shifted out whole. -/
theorem eq_zero_of_eq_shl64 (hk : 0 < k) {a : Word64} (h : a = shl64 a k) : a = 0 := by
  have hshift (n : Nat) : a = a <<< (n * k) := by
    induction n with
    | zero => simp
    | succ n ih => rw [Nat.succ_mul, BitVec.shiftLeft_add, ← ih]; exact h
  rw [hshift 64]
  exact BitVec.shiftLeft_eq_zero (by omega)

theorem eq_zero_of_eq_shr64 (hk : 0 < k) {a : Word64} (h : a = shr64 a k) : a = 0 := by
  have hshift (n : Nat) : a = a >>> (n * k) := by
    induction n with
    | zero => simp
    | succ n ih => rw [Nat.succ_mul, BitVec.shiftRight_add, ← ih]; exact h
  rw [hshift 64]
  exact BitVec.ushiftRight_eq_zero (by omega)

theorem xorShl_bijective (hk : 0 < k) : Function.Bijective (xorShl k) :=
  bijective_of_xor (xorShl_xor k) fun _ h => eq_zero_of_eq_shl64 hk (BitVec.xor_eq_zero_iff.mp h)

theorem xorShr_bijective (hk : 0 < k) : Function.Bijective (xorShr k) :=
  bijective_of_xor (xorShr_xor k) fun _ h => eq_zero_of_eq_shr64 hk (BitVec.xor_eq_zero_iff.mp h)

/-- A rotation loses no bit: bit `i` goes to place `i + k`, or, from the top `k` bits, to place `i + k - 64`. -/
theorem rotl64_bijective (hk : k ≤ 64) : Function.Bijective fun a => rotl64 a k := by
  refine bijective_of_xor (rotl64_xor k) fun a h => ?_
  obtain ⟨hshl, hshr⟩ := BitVec.or_eq_zero_iff.mp h
  ext i hi
  rcases Nat.lt_or_ge i (64 - k) with hlow | hhigh
  · have hbit := congrArg (·.getLsbD (i + k)) hshl
    simpa [shl64, show i + k < 64 by omega, BitVec.getLsbD_eq_getElem hi] using hbit
  · have hbit := congrArg (·.getLsbD (i - (64 - k))) hshr
    simpa [shr64, Nat.add_sub_cancel' hhigh, BitVec.getLsbD_eq_getElem hi] using hbit

end

/-! ## Every word is an XOR of single-bit words -/

/-- The low `k + 1` bits of a word are its low `k` bits and bit `k`. -/
theorem low_bits_succ (w : Word64) (k : Nat) : (w.setWidth (k + 1)).setWidth 64 =
    (w.setWidth k).setWidth 64 ^^^ (if w.getLsbD k then BitVec.twoPow 64 k else 0) := by
  ext i hi
  rcases Nat.lt_trichotomy i k with h | rfl | h
  · cases w.getLsbD k <;> simp [show i < k + 1 by omega, h, Nat.ne_of_lt h]
  · cases hw : w.getLsbD i <;> simp [hw]
  · cases w.getLsbD k <;> simp [show ¬ i < k + 1 by omega, show ¬ i < k by omega, Nat.ne_of_gt h]

/-- What holds of zero and of the single-bit words and is kept by XOR holds of every word. -/
theorem word_xor_induction {P : Word64 → Prop} (zero : P 0) (xor : ∀ a b, P a → P b → P (a ^^^ b))
    (bit : ∀ i < 64, P (BitVec.twoPow 64 i)) (w : Word64) : P w := by
  have hlow (k : Nat) (hk : k ≤ 64) : P ((w.setWidth k).setWidth 64) := by
    induction k with
    | zero => rw [BitVec.of_length_zero (x := w.setWidth 0)]; exact zero
    | succ k ih =>
      rw [low_bits_succ]
      refine xor _ _ (ih (by omega)) ?_
      split
      · exact bit k (by omega)
      · exact zero
  simpa using hlow 64 le_rfl

end Sys2Proof.Machine

/-! # The units XS128 and XO128 (R73 to R77, R83 to R87) -/

namespace Sys2Proof.Machine

open Sys2Proof Sys2Proof.Claims

/-! ## Their steps -/

theorem advanceXs128_eq (u : Xs128Regs) :
    advanceXs128 u = ⟨u.s1, xorShr 18 (xorShl 23 u.s0) ^^^ xorShr 5 u.s1⟩ :=
  congrArg (Xs128Regs.mk u.s1) (xor_regroup ..)

theorem advanceXo128_eq (u : Xo128Regs) :
    advanceXo128 u = ⟨rotl64 u.s0 55 ^^^ xorShl 14 (u.s0 ^^^ u.s1), rotl64 (u.s0 ^^^ u.s1) 36⟩ := by
  rw [BitVec.xor_comm u.s0 u.s1]
  exact congrArg (Xo128Regs.mk · _) (BitVec.xor_assoc ..)

/-- XS128 as a linear unit (R75). -/
def xs128Linear : LinearUnit Xs128Regs where
  zero := ⟨0, 0⟩
  xor := xorXs128
  advance := advanceXs128
  xor_assoc _ _ _ := by simp only [xorXs128, BitVec.xor_assoc]
  xor_comm _ _ := by simp only [xorXs128, BitVec.xor_comm]
  xor_zero _ := by simp [xorXs128]
  xor_self _ := by simp [xorXs128]
  advance_xor a b := by
    simp only [advanceXs128_eq, xorXs128, xorShl_xor, xorShr_xor, Xs128Regs.mk.injEq, true_and]
    ac_rfl

/-- XO128 as a linear unit (R85). -/
def xo128Linear : LinearUnit Xo128Regs where
  zero := ⟨0, 0⟩
  xor := xorXo128
  advance := advanceXo128
  xor_assoc _ _ _ := by simp only [xorXo128, BitVec.xor_assoc]
  xor_comm _ _ := by simp only [xorXo128, BitVec.xor_comm]
  xor_zero _ := by simp [xorXo128]
  xor_self _ := by simp [xorXo128]
  advance_xor a b := by
    simp only [advanceXo128_eq, xorXo128, xorShl_xor, rotl64_xor, Xo128Regs.mk.injEq]
    constructor <;> ac_rfl

/-! ## Their steps can be undone -/

theorem advanceXs128_injective : Function.Injective advanceXs128 := by
  rintro ⟨a, b⟩ ⟨a', b'⟩ h
  rw [advanceXs128_eq, advanceXs128_eq, Xs128Regs.mk.injEq] at h
  obtain ⟨hb, h⟩ := h
  obtain rfl : b = b' := hb
  have hshl := (xorShr_bijective (by decide)).injective ((BitVec.xor_left_inj _).mp h)
  obtain rfl : a = a' := (xorShl_bijective (by decide)).injective hshl
  rfl

theorem advanceXo128_injective : Function.Injective advanceXo128 := by
  rintro ⟨a, b⟩ ⟨a', b'⟩ h
  rw [advanceXo128_eq, advanceXo128_eq, Xo128Regs.mk.injEq] at h
  obtain ⟨h0, h1⟩ := h
  have hc : a ^^^ b = a' ^^^ b' := (rotl64_bijective (by decide)).injective h1
  rw [hc, BitVec.xor_left_inj] at h0
  obtain rfl : a = a' := (rotl64_bijective (by decide)).injective h0
  rw [(BitVec.xor_right_inj _).mp hc]

/-! ## The characteristic polynomials -/

/-- The polynomial `c` below degree 128 with `T^128 = c(T)` for the step `T` of XS128; `xs128_reduces` says that it is. -/
def xs128Residue : BitVec 128 := 0x2844C5D42CAF7DB0024F06FAE9E61DAF

/-- The same of XO128; `xo128_reduces` says so. -/
def xo128Residue : BitVec 128 := 0x00653CED7F29F88A5FD66762F0E1C001

/-- 64 runs of 128 steps, evaluated by the kernel. -/
theorem xs128Residue_on_bits : ∀ i < 64, xs128Linear.Reduces xs128Residue ⟨BitVec.twoPow 64 i, 0⟩ := by
  unfold LinearUnit.Reduces
  decide +kernel

theorem xo128Residue_on_bits : ∀ i < 64, xo128Linear.Reduces xo128Residue ⟨0, BitVec.twoPow 64 i⟩ := by
  unfold LinearUnit.Reduces
  decide +kernel

/-- 128 steps of XS128 are its polynomial in the step: on the states `(a, 0)` bit by bit, on the states `(0, b)` since the step
takes the former to all of the latter, and so on every state. -/
theorem xs128_reduces (u : Xs128Regs) : xs128Linear.Reduces xs128Residue u := by
  have hfirst (a : Word64) : xs128Linear.Reduces xs128Residue ⟨a, 0⟩ := by
    induction a using word_xor_induction with
    | zero => exact LinearUnit.reduces_zero
    | xor v w hv hw =>
      have hxor : xorXs128 ⟨v, 0⟩ ⟨w, 0⟩ = ⟨v ^^^ w, 0⟩ := congrArg (Xs128Regs.mk (v ^^^ w)) BitVec.xor_self
      exact hxor ▸ hv.xor hw
    | bit i hi => exact xs128Residue_on_bits i hi
  have hsecond (b : Word64) : xs128Linear.Reduces xs128Residue ⟨0, b⟩ := by
    obtain ⟨a', rfl⟩ := (xorShr_bijective (k := 18) (by decide)).surjective b
    obtain ⟨a, rfl⟩ := (xorShl_bijective (k := 23) (by decide)).surjective a'
    have hstep : advanceXs128 ⟨a, 0⟩ = ⟨0, xorShr 18 (xorShl 23 a)⟩ := by
      simp [advanceXs128_eq, xorShr, shr64]
    exact hstep ▸ (hfirst a).advance
  have hsplit : xorXs128 ⟨u.s0, 0⟩ ⟨0, u.s1⟩ = u := congrArg₂ Xs128Regs.mk BitVec.xor_zero BitVec.zero_xor
  exact hsplit ▸ (hfirst u.s0).xor (hsecond u.s1)

/-- The same of XO128: on the states `(0, b)` bit by bit, on the states `(a, 0)` since the step takes the former to all of the
latter, up to the second word. -/
theorem xo128_reduces (u : Xo128Regs) : xo128Linear.Reduces xo128Residue u := by
  have hsecond (b : Word64) : xo128Linear.Reduces xo128Residue ⟨0, b⟩ := by
    induction b using word_xor_induction with
    | zero => exact LinearUnit.reduces_zero
    | xor v w hv hw =>
      have hxor : xorXo128 ⟨0, v⟩ ⟨0, w⟩ = ⟨0, v ^^^ w⟩ := congrArg (Xo128Regs.mk · (v ^^^ w)) BitVec.xor_self
      exact hxor ▸ hv.xor hw
    | bit i hi => exact xo128Residue_on_bits i hi
  have hfirst (a : Word64) : xo128Linear.Reduces xo128Residue ⟨a, 0⟩ := by
    obtain ⟨b, rfl⟩ := (xorShl_bijective (k := 14) (by decide)).surjective a
    have hstep : xorXo128 (advanceXo128 ⟨0, b⟩) ⟨0, rotl64 b 36⟩ = ⟨xorShl 14 b, 0⟩ := by
      simp [xorXo128, advanceXo128_eq, rotl64, shl64, shr64]
    exact hstep ▸ (hsecond b).advance.xor (hsecond (rotl64 b 36))
  have hsplit : xorXo128 ⟨u.s0, 0⟩ ⟨0, u.s1⟩ = u := congrArg₂ Xo128Regs.mk BitVec.xor_zero BitVec.zero_xor
  exact hsplit ▸ (hfirst u.s0).xor (hsecond u.s1)

/-! ## Their jumps are 2^64 steps (R75, R85) -/

/-- The two words of `JUMP_XS128` as one polynomial (R74). -/
def xs128Jump : BitVec 128 := 0x121FD2155C472F968A5CD789635D2DFF

/-- The two words of `JUMP_XO128` as one polynomial (R84). -/
def xo128Jump : BitVec 128 := 0xD86B048B86AA9922BEAC0467EBA5FACB

theorem jumpXs128_eq_apply (u : Xs128Regs) : jumpXs128 u = xs128Linear.apply xs128Jump u := by
  have hbits : polynomialBits jumpWordsXs128 = LinearUnit.bitsOf xs128Jump := by decide +kernel
  rw [jumpXs128, hbits]
  rfl

theorem jumpXo128_eq_apply (u : Xo128Regs) : jumpXo128 u = xo128Linear.apply xo128Jump u := by
  have hbits : polynomialBits jumpWordsXo128 = LinearUnit.bitsOf xo128Jump := by decide +kernel
  rw [jumpXo128, hbits]
  rfl

/-- The jump polynomial of XS128 is `x^(2^64)`, by 64 squarings of `x`. -/
theorem xs128Jump_eq_power :
    (LinearUnit.square xs128Residue)^[64] (LinearUnit.timesX xs128Residue 1) = xs128Jump := by decide +kernel

theorem xo128Jump_eq_power :
    (LinearUnit.square xo128Residue)^[64] (LinearUnit.timesX xo128Residue 1) = xo128Jump := by decide +kernel

theorem jumpXs128_eq_iterate (u : Xs128Regs) : jumpXs128 u = advanceXs128^[2 ^ 64] u := by
  rw [jumpXs128_eq_apply, ← xs128Jump_eq_power, LinearUnit.apply_iterate_square xs128_reduces]
  rfl

theorem jumpXo128_eq_iterate (u : Xo128Regs) : jumpXo128 u = advanceXo128^[2 ^ 64] u := by
  rw [jumpXo128_eq_apply, ← xo128Jump_eq_power, LinearUnit.apply_iterate_square xo128_reduces]
  rfl

/-- Settles O47: 2^64 steps are the polynomial `x^(2^64)` in the step, which is the jump polynomial modulo the
characteristic one. -/
theorem jumpXs128IsTwoToThe64Steps : Obligations.JumpXs128IsTwoToThe64Steps := by
  intro s hp hv
  rw [exec_of_needed (u := .xs128) rfl rfl hp hv, ← jumpXs128_eq_iterate]
  rfl

theorem jumpXs128_injective : Function.Injective jumpXs128 :=
  funext jumpXs128_eq_iterate ▸ advanceXs128_injective.iterate (2 ^ 64)

theorem jumpXo128_injective : Function.Injective jumpXo128 :=
  funext jumpXo128_eq_iterate ▸ advanceXo128_injective.iterate (2 ^ 64)

/-- Settles O50: a jump is injective, as 2^64 injective steps are. -/
theorem jumpKeepsStatesApart : Obligations.JumpKeepsStatesApart :=
  ⟨fun k _ _ h => (jumpXs128_injective.iterate k).ne h, fun k _ _ h => (jumpXo128_injective.iterate k).ne h⟩

/-! ## Bijectivity, and the all-zero state (R76, R77, R86, R87) -/

theorem finite_xs128Regs : Finite Xs128Regs :=
  Finite.of_injective (fun u => (u.s0, u.s1)) fun ⟨_, _⟩ ⟨_, _⟩ h => by cases h; rfl

theorem finite_xo128Regs : Finite Xo128Regs :=
  Finite.of_injective (fun u => (u.s0, u.s1)) fun ⟨_, _⟩ ⟨_, _⟩ h => by cases h; rfl

/-- Settles O43: the steps are injective, so bijective on finitely many states, and linear, so zero comes from zero alone. -/
theorem twoWordNextIsInvertible : Obligations.TwoWordNextIsInvertible :=
  have := finite_xs128Regs
  have := finite_xo128Regs
  ⟨Finite.injective_iff_bijective.mp advanceXs128_injective, Finite.injective_iff_bijective.mp advanceXo128_injective,
    fun k _ => xs128Linear.iterate_advance_ne_zero advanceXs128_injective k,
    fun k _ => xo128Linear.iterate_advance_ne_zero advanceXo128_injective k⟩

/-- A `Next` that leaves the state as it was gives the same word again and again. -/
theorem draw_of_fixed {u : UnitId} {s : State} {w : Word64} (h : nextUnit u s = (w, s)) (n : Nat) :
    draw u n s = (List.replicate n w, s) := by
  induction n with
  | zero => rfl
  | succ n ih => rw [draw_succ, h, ih]; rfl

/-- A unit that neither `Next` nor the jump changes, and whose `Next` gives 0, answers `NEXT`, `JUMP` and `GEN` with zeros and
nothing changes. -/
theorem exec_of_fixed {u : UnitId} {s : State} {jump : Instr} (hnext : nextUnit u s = (0, s)) (hjump : jumpUnit u s = s)
    (hof : jumpOf u = some jump) (hp : s.payload = []) (hv : s.valid.get u = true) (n : Nat) :
    exec (nextOf u) s = .next (answered s .ok [0]) ∧ exec jump s = .next (answered s .ok []) ∧
      exec (genOf u n) s = .next (answered s .ok (List.replicate n 0)) := by
  refine ⟨?_, ?_, ?_⟩
  · rw [exec_of_needed (payloadWords_nextOf u) (neededUnit_nextOf u) hp hv, effectOf_nextOf, draw_of_fixed hnext]
    rfl
  · rw [exec_of_needed (payloadWords_jumpOf hof) (neededUnit_jumpOf hof) hp hv, effectOf_jumpOf s hof, hjump]
    rfl
  · rw [exec_of_needed (payloadWords_genOf u n) (neededUnit_genOf u n) hp hv, effectOf_genOf, draw_of_fixed hnext]
    rfl

/-- Settles O41: a step and a jump from two zero words leave the state as it was. -/
theorem twoWordUnitsStayZero : Obligations.TwoWordUnitsStayZero := by
  constructor
  · intro s n hp hv hzero
    have hnext : nextUnit .xs128 s = (0, s) := by
      rw [nextUnit, hzero, show nextXs128 ⟨0, 0⟩ = (0, ⟨0, 0⟩) by decide, ← hzero]
    have hjump : jumpUnit .xs128 s = s := by
      rw [jumpUnit, hzero, show jumpXs128 ⟨0, 0⟩ = ⟨0, 0⟩ from xs128Linear.applyBits_zero _, ← hzero]
    exact exec_of_fixed hnext hjump rfl hp hv n
  · intro s n hp hv hzero
    have hnext : nextUnit .xo128 s = (0, s) := by
      rw [nextUnit, hzero, show nextXo128 ⟨0, 0⟩ = (0, ⟨0, 0⟩) by decide, ← hzero]
    have hjump : jumpUnit .xo128 s = s := by
      rw [jumpUnit, hzero, show jumpXo128 ⟨0, 0⟩ = ⟨0, 0⟩ from xo128Linear.applyBits_zero _, ← hzero]
    exact exec_of_fixed hnext hjump rfl hp hv n

/-! ## The rules of `NEXT XS128` and `JUMP XS128` (R73, R74) -/

theorem nextXs128_output (u : Xs128Regs) : (nextXs128 u).1 = u.s0 + u.s1 :=
  (add64_eq_add _ _).trans (BitVec.add_comm _ _)

/-- Settles O29: its row of the opcode map, with one `Next` of XS128 as effect. -/
theorem nextXs128Rule : Obligations.NextXs128Rule :=
  followsRule_of_selects (.next .xs128) (by decide) rfl rfl rfl fun st =>
    congrArg (fun w => (_, [w])) (nextXs128_output st.xs128)

theorem jumpXs128_eq_xorSelected (u : Xs128Regs) : jumpXs128 u =
    ⟨xorSelected (polynomialBit jumpWordsXs128) 128 fun n => (advanceXs128^[n] u).s0,
      xorSelected (polynomialBit jumpWordsXs128) 128 fun n => (advanceXs128^[n] u).s1⟩ := by
  have hword (word : Xs128Regs → Word64) (hxor : ∀ a b, word (xorXs128 a b) = word a ^^^ word b)
      (hzero : word ⟨0, 0⟩ = 0) : word (jumpXs128 u) =
        xorSelected (polynomialBit jumpWordsXs128) 128 fun n => word (advanceXs128^[n] u) := by
    rw [jumpXs128, polynomialBits_eq_map]
    exact jumpLoop_word hxor hzero id advanceXs128 _ 128 u
  rw [← hword Xs128Regs.s0 (fun _ _ => rfl) rfl, ← hword Xs128Regs.s1 (fun _ _ => rfl) rfl]

/-- Settles O32: its row of the opcode map, with the loop read word by word as effect. -/
theorem jumpXs128Loop : Obligations.JumpXs128Loop :=
  followsRule_of_selects (.jump (u := .xs128) rfl) (by decide) rfl rfl rfl fun st =>
    congrArg (fun r => ({ st with xs128 := r }, [])) (jumpXs128_eq_xorSelected st.xs128)

end Sys2Proof.Machine

/-! # XS1024 through its rotated view, and jumps beside steps (R75, R85, R94 to R96) -/

namespace Sys2Proof.Machine

open Sys2Proof Sys2Proof.Claims

/-! ## The view of a unit is a linear unit -/

theorem advanceXs1024_eq (u : Xs1024Regs) : advanceXs1024 u =
    ⟨putWord u.s (u.p + 1) (xorShr 11 (xorShl 31 (wordAt u.s (u.p + 1))) ^^^ xorShr 30 (wordAt u.s u.p)), u.p + 1⟩ :=
  congrArg (fun w => Xs1024Regs.mk (putWord u.s (u.p + 1) w) (u.p + 1)) (xor_regroup ..)

/-- The view after a step: the new word stands first, and the others have moved down by one place, the first to the end (R93,
R96). -/
theorem wordAt_rotatedView_advanceXs1024 (u : Xs1024Regs) (j : BitVec 4) :
    wordAt (rotatedView (advanceXs1024 u)) j =
      if j = 0 then xorShr 11 (xorShl 31 (wordAt (rotatedView u) 1)) ^^^ xorShr 30 (wordAt (rotatedView u) 0)
      else wordAt (rotatedView u) (j + 1) := by
  have hplace : u.p + 1 = j + (u.p + 1) ↔ j = 0 := right_eq_add
  simp only [wordAt_rotatedView, advanceXs1024_eq, wordAt_putWord, hplace, zero_add, add_assoc, add_comm 1 u.p]

/-- One step seen in the view. `rotatedView_advanceXs1024` says that it is the step of every unit with that view. -/
def advanceView (v : Vector Word64 16) : Vector Word64 16 := rotatedView (advanceXs1024 ⟨v, 0⟩)

theorem rotatedView_of_cursor_zero (v : Vector Word64 16) : rotatedView ⟨v, 0⟩ = v :=
  words_ext fun j => (wordAt_rotatedView _ j).trans (congrArg (wordAt v) (add_zero j))

theorem wordAt_advanceView (v : Vector Word64 16) (j : BitVec 4) : wordAt (advanceView v) j =
    if j = 0 then xorShr 11 (xorShl 31 (wordAt v 1)) ^^^ xorShr 30 (wordAt v 0) else wordAt v (j + 1) := by
  rw [advanceView, wordAt_rotatedView_advanceXs1024, rotatedView_of_cursor_zero]

theorem rotatedView_advanceXs1024 (u : Xs1024Regs) : rotatedView (advanceXs1024 u) = advanceView (rotatedView u) :=
  words_ext fun j => by rw [wordAt_rotatedView_advanceXs1024, wordAt_advanceView]

theorem wordAt_xorWords (a b : Vector Word64 16) (j : BitVec 4) : wordAt (xorWords a b) j = wordAt a j ^^^ wordAt b j := by
  simp [wordAt, xorWords]

theorem wordAt_zeros (j : BitVec 4) : wordAt (Vector.replicate 16 0) j = 0 := by simp [wordAt]

/-- The views of XS1024 as a linear unit (R95). -/
def viewLinear : LinearUnit (Vector Word64 16) where
  zero := Vector.replicate 16 0
  xor := xorWords
  advance := advanceView
  xor_assoc _ _ _ := words_ext fun j => by simp only [wordAt_xorWords, BitVec.xor_assoc]
  xor_comm _ _ := words_ext fun j => by simp only [wordAt_xorWords, BitVec.xor_comm]
  xor_zero _ := words_ext fun j => by rw [wordAt_xorWords, wordAt_zeros]; exact BitVec.xor_zero
  xor_self _ := words_ext fun j => by rw [wordAt_xorWords, wordAt_zeros]; exact BitVec.xor_self
  advance_xor a b := words_ext fun j => by
    simp only [wordAt_xorWords, wordAt_advanceView, xorShl_xor, xorShr_xor]
    split
    · ac_rfl
    · rfl

/-! ## The jump in the view -/

theorem rotatedView_jumpXs1024 (u : Xs1024Regs) :
    rotatedView (jumpXs1024 u) = viewLinear.applyBits (polynomialBits Config.jump1024) (rotatedView u) := by
  rw [jumpXs1024, rotatedView_unrotate]
  exact jumpLoop_of_view rotatedView_advanceXs1024 ..

/-- The view and the cursor are all there is of XS1024. -/
theorem xs1024_ext {u v : Xs1024Regs} (hview : rotatedView u = rotatedView v) (hp : u.p = v.p) : u = v := by
  have hs : u.s = v.s := by rw [← unrotate_rotatedView u, ← unrotate_rotatedView v, hview, hp]
  exact congrArg₂ Xs1024Regs.mk hs hp

/-- Settles O46: a jump is a polynomial in the step, of the words or of the view, and so commutes with it. -/
theorem jumpCommutesWithNext : Obligations.JumpCommutesWithNext := by
  refine ⟨fun u => ?_, fun u => ?_, fun u => xs1024_ext ?_ ?_⟩
  · rw [jumpXs128_eq_apply, jumpXs128_eq_apply]
    exact xs128Linear.apply_advance xs128Jump u
  · rw [jumpXo128_eq_apply, jumpXo128_eq_apply]
    exact xo128Linear.apply_advance xo128Jump u
  · rw [rotatedView_jumpXs1024, rotatedView_advanceXs1024, rotatedView_advanceXs1024, rotatedView_jumpXs1024]
    exact viewLinear.applyBits_advance _ _
  · rw [jumpXs1024_cursor, advanceXs1024_cursor, advanceXs1024_cursor, jumpXs1024_cursor]

end Sys2Proof.Machine

/-! # The rules of `NEXT XO128` and `JUMP XO128`, and its jump as 2^64 steps (R83 to R85) -/

namespace Sys2Proof.Machine

open Sys2Proof Sys2Proof.Claims

/-! ## `NEXT XO128` (R83) -/

/-- The rotation of R7 is the library's. -/
theorem rotl64_eq_rotateLeft {k : Nat} (hk : k < 64) (a : Word64) : rotl64 a k = a.rotateLeft k :=
  (BitVec.rotateLeft_eq_rotateLeftAux_of_lt hk).symm

theorem nextXo128_output (u : Xo128Regs) : (nextXo128 u).1 = u.s0 + u.s1 := add64_eq_add _ _

/-- The step as R83 writes it: `c` is XORed in as it is and shifted, and its rotation is the second word. -/
theorem advanceXo128_eq_rotateLeft (u : Xo128Regs) : advanceXo128 u =
    ⟨u.s0.rotateLeft 55 ^^^ (u.s0 ^^^ u.s1) ^^^ ((u.s0 ^^^ u.s1) <<< 14), (u.s0 ^^^ u.s1).rotateLeft 36⟩ := by
  rw [advanceXo128_eq, rotl64_eq_rotateLeft (by decide), rotl64_eq_rotateLeft (by decide), xorShl, shl64,
    BitVec.xor_assoc (u.s0.rotateLeft 55)]

/-- Settles O30: its row of the opcode map, with one `Next` of XO128 as effect. -/
theorem nextXo128Rule : Obligations.NextXo128Rule :=
  followsRule_of_selects (.next .xo128) (by decide) rfl rfl rfl fun st =>
    congrArg₂ (fun r w => ({ st with xo128 := r }, [w])) (advanceXo128_eq_rotateLeft st.xo128)
      (nextXo128_output st.xo128)

/-! ## `JUMP XO128` (R84, R85) -/

/-- A word of the registers that respects their XOR, after the jump: what the loop has selected of it. -/
theorem word_jumpXo128 {word : Xo128Regs → Word64} (hxor : ∀ a b, word (xorXo128 a b) = word a ^^^ word b)
    (hzero : word ⟨0, 0⟩ = 0) (u : Xo128Regs) : word (jumpXo128 u) =
      xorSelected (polynomialBit jumpWordsXo128) 128 fun n => word (advanceXo128^[n] u) := by
  rw [jumpXo128, polynomialBits_eq_map]
  exact jumpLoop_word hxor hzero id advanceXo128 _ 128 u

/-- Settles O33: its row of the opcode map, with the loop read word by word as effect. -/
theorem jumpXo128Loop : Obligations.JumpXo128Loop :=
  followsRule_of_selects (.jump (u := .xo128) rfl) (by decide) rfl rfl rfl fun st =>
    congrArg₂ (fun a b => ({ st with xo128 := ⟨a, b⟩ }, []))
      (word_jumpXo128 (word := Xo128Regs.s0) (fun _ _ => rfl) rfl st.xo128)
      (word_jumpXo128 (word := Xo128Regs.s1) (fun _ _ => rfl) rfl st.xo128)

/-- Settles O48: the jump's effect, its polynomial being that of 2^64 steps (`jumpXo128_eq_iterate`). -/
theorem jumpXo128IsTwoToThe64Steps : Obligations.JumpXo128IsTwoToThe64Steps := by
  intro s hp hv
  rw [exec_of_needed (u := .xo128) rfl rfl hp hv, ← jumpXo128_eq_iterate]
  rfl

end Sys2Proof.Machine

/-! # `NEXT XS1024`: the word it writes and its output (R93, R98) -/

namespace Sys2Proof.Machine

open Sys2Proof Sys2Proof.Claims

/-! ## `Next` in the words of the view -/

theorem viewWord_eq_wordAt (u : Xs1024Regs) (j : Nat) : viewWord u j = wordAt (rotatedView u) (BitVec.ofNat 4 j) := by
  rw [wordAt_rotatedView]; simp [viewWord, wordAt]

theorem newWord_eq (u : Xs1024Regs) :
    newWord u = xorShr 11 (xorShl 31 (viewWord u 1)) ^^^ xorShr 30 (viewWord u 0) := xor_regroup ..

/-- `Next` of XS1024 (R93): the new word goes to the place after the cursor, the cursor follows it, and the output is the
new word times `MUL1024`. -/
theorem nextXs1024_eq (u : Xs1024Regs) :
    nextXs1024 u = (mul1024 * newWord u, ⟨putWord u.s (u.p + 1) (newWord u), u.p + 1⟩) := by
  have hx : viewWord u 0 = wordAt u.s u.p := by
    rw [viewWord_eq_wordAt, wordAt_rotatedView]; exact congrArg (wordAt u.s) (zero_add u.p)
  have hy : viewWord u 1 = wordAt u.s (u.p + 1) := by
    rw [viewWord_eq_wordAt, wordAt_rotatedView]; exact congrArg (wordAt u.s) (add_comm 1 u.p)
  rw [newWord, hx, hy, BitVec.mul_comm, ← mul64_eq_mul]
  rfl

/-- Settles O31: its row of the opcode map, with one `Next` of XS1024 read word by word as effect. -/
theorem nextXs1024Rule : Obligations.NextXs1024Rule := by
  refine followsRule_of_selects (.next .xs1024) (by decide) rfl rfl rfl fun st => ?_
  have hcursor : st.xs1024.p + 1 = BitVec.ofNat 4 ((st.xs1024.p.toNat + 1) % 16) := by
    apply BitVec.eq_of_toNat_eq; simp
  have hwords : putWord st.xs1024.s (st.xs1024.p + 1) (newWord st.xs1024) = Vector.ofFn fun j : Fin 16 =>
      if j.val = (st.xs1024.p.toNat + 1) % 16 then newWord st.xs1024 else st.xs1024.s[j] := by
    apply Vector.ext
    intro j hj
    simp [putWord, Vector.getElem_set, eq_comm]
  rw [← hwords, ← hcursor]
  exact congrArg (fun r => ({ st with xs1024 := r.2 }, [r.1])) (nextXs1024_eq st.xs1024)

/-! ## The output is an injective function of the new word (R98 item 5) -/

/-- The word at the new cursor is the one just written. -/
theorem viewWord_advanceXs1024_zero (u : Xs1024Regs) : viewWord (advanceXs1024 u) 0 = newWord u := by
  rw [newWord_eq, viewWord_eq_wordAt, viewWord_eq_wordAt, viewWord_eq_wordAt, wordAt_rotatedView_advanceXs1024]
  exact if_pos rfl

theorem nextXs1024_output (u : Xs1024Regs) : (nextXs1024 u).1 = mul1024 * viewWord (advanceXs1024 u) 0 := by
  rw [nextXs1024_eq, viewWord_advanceXs1024_zero]

/-- The inverse of `MUL1024`, an odd number, modulo 2^64; `mul1024_mul_inverse` says that it is. -/
def mul1024Inverse : Word64 := 0xBB91F78BDAC4C89D

theorem mul1024_mul_inverse : mul1024 * mul1024Inverse = 1 := by decide

theorem mul1024_mul_bijective : Function.Bijective (mul1024 * ·) :=
  IsUnit.isUnit_iff_mulLeft_bijective.mp (IsUnit.of_mul_eq_one _ mul1024_mul_inverse)

/-- Settles O45: `MUL1024` has an inverse modulo 2^64. -/
theorem outputOfXs1024IsInjective : Obligations.OutputOfXs1024IsInjective := by
  refine ⟨mul1024_mul_bijective, nextXs1024_output, fun u => ?_⟩
  have hzero := mul1024_mul_bijective.injective.eq_iff (a := viewWord (advanceXs1024 u) 0) (b := 0)
  rwa [mul_zero, ← nextXs1024_output] at hzero

end Sys2Proof.Machine

/-! # XS1024 by its rotated view: outputs, jump, zero state and invertibility (R94, R96 to R98) -/

namespace Sys2Proof.Machine

open Sys2Proof Sys2Proof.Claims

/-! ## Only the view matters (R96) -/

theorem rotatedView_eq_iff (u v : Xs1024Regs) :
    rotatedView u = rotatedView v ↔ ∀ j < 16, viewWord u j = viewWord v j := by
  constructor
  · intro h j _
    rw [viewWord_eq_wordAt, viewWord_eq_wordAt, h]
  · intro h
    refine words_ext fun j => ?_
    simpa [viewWord_eq_wordAt] using h j.toNat j.isLt

theorem rotatedView_iterate_advanceXs1024 (k : Nat) (u : Xs1024Regs) :
    rotatedView (advanceXs1024^[k] u) = advanceView^[k] (rotatedView u) :=
  (Function.Semiconj.iterate_right rotatedView_advanceXs1024 k) u

theorem nextXs1024_output_of_view (u : Xs1024Regs) :
    (nextXs1024 u).1 = mul1024 * wordAt (advanceView (rotatedView u)) 0 := by
  rw [nextXs1024_output, viewWord_eq_wordAt, rotatedView_advanceXs1024]
  rfl

/-- A step moves every place but 0 down by one, round the end. -/
theorem viewWord_advanceXs1024 (u : Xs1024Regs) {j : Nat} (hj : j % 16 ≠ 0) :
    viewWord (advanceXs1024 u) j = viewWord u (j + 1) := by
  have hplace : BitVec.ofNat 4 j ≠ 0 := fun h => hj (by simpa using congrArg BitVec.toNat h)
  rw [viewWord_eq_wordAt, viewWord_eq_wordAt, wordAt_rotatedView_advanceXs1024, if_neg hplace,
    BitVec.ofNat_add]
  rfl

/-- Settles O52: outputs, steps and jumps are functions of the view. -/
theorem onlyTheRotatedViewMatters : Obligations.OnlyTheRotatedViewMatters := by
  refine ⟨fun u v h => ⟨fun k => ?_, fun k => ?_, ?_⟩, fun u => ⟨fun j hlow hhigh => ?_, ?_⟩⟩
  · rw [nextXs1024_output_of_view, nextXs1024_output_of_view, rotatedView_iterate_advanceXs1024,
      rotatedView_iterate_advanceXs1024, (rotatedView_eq_iff u v).mpr h]
  · rw [← rotatedView_eq_iff, rotatedView_iterate_advanceXs1024, rotatedView_iterate_advanceXs1024,
      (rotatedView_eq_iff u v).mpr h]
  · rw [← rotatedView_eq_iff, rotatedView_jumpXs1024, rotatedView_jumpXs1024, (rotatedView_eq_iff u v).mpr h]
  · exact viewWord_advanceXs1024 u (by omega)
  · rw [viewWord_advanceXs1024 u (by decide), viewWord_eq_wordAt, viewWord_eq_wordAt]
    rfl

/-! ## The loop of the jump, word by word (R94) -/

theorem wordAt_rotatedView_jumpXs1024 (u : Xs1024Regs) (j : BitVec 4) : wordAt (rotatedView (jumpXs1024 u)) j =
    xorSelected (polynomialBit Config.jump1024) 1024 fun n => wordAt (rotatedView (advanceXs1024^[n] u)) j := by
  rw [jumpXs1024, rotatedView_unrotate, polynomialBits_eq_map]
  exact jumpLoop_word (word := (wordAt · j)) (wordAt_xorWords · · j) (wordAt_zeros j) rotatedView advanceXs1024 _ 1024 u

/-- The word at place `k` of the array stands `k - p` places past the cursor. -/
theorem viewWord_from_cursor (u : Xs1024Regs) (p k : BitVec 4) :
    viewWord u ((k.toNat + 16 - p.toNat) % 16) = wordAt (rotatedView u) (k - p) := by
  have hplace : BitVec.ofNat 4 ((k.toNat + 16 - p.toNat) % 16) = k - p := by
    apply BitVec.eq_of_toNat_eq
    rw [BitVec.toNat_sub, BitVec.toNat_ofNat]
    omega
  rw [viewWord_eq_wordAt, hplace]

theorem wordAt_ofFn (f : Fin 16 → Word64) (k : BitVec 4) : wordAt (Vector.ofFn f) k = f k.toFin :=
  Vector.getElem_ofFn ..

theorem jumpXs1024_eq_xorSelected (u : Xs1024Regs) : jumpXs1024 u =
    ⟨Vector.ofFn fun k : Fin 16 => xorSelected (polynomialBit Config.jump1024) 1024 fun n =>
      viewWord (advanceXs1024^[n] u) ((k.val + 16 - u.p.toNat) % 16), u.p⟩ := by
  refine xs1024_ext (words_ext fun j => ?_) (jumpXs1024_cursor u)
  rw [wordAt_rotatedView_jumpXs1024, wordAt_rotatedView, wordAt_ofFn]
  simp only [BitVec.val_toFin, viewWord_from_cursor, BitVec.add_sub_cancel]

/-- Settles O34: its row of the opcode map, with the loop read word by word as effect. -/
theorem jumpXs1024Loop : Obligations.JumpXs1024Loop :=
  followsRule_of_selects (.jump (u := .xs1024) rfl) (by decide) rfl rfl rfl fun st =>
    congrArg (fun r => ({ st with xs1024 := r }, [])) (jumpXs1024_eq_xorSelected st.xs1024)

/-! ## The all-zero state (R97) -/

theorem rotatedView_eq_zero_iff (u : Xs1024Regs) :
    rotatedView u = Vector.replicate 16 0 ↔ u.s = Vector.replicate 16 0 := by
  constructor
  · intro h
    refine words_ext fun j => ?_
    rw [← BitVec.sub_add_cancel (x := j) (y := u.p), ← wordAt_rotatedView, h, wordAt_zeros, wordAt_zeros]
  · intro h
    exact words_ext fun j => by rw [wordAt_rotatedView, h, wordAt_zeros, wordAt_zeros]

theorem advanceXs1024_of_zero {u : Xs1024Regs} (h : u.s = Vector.replicate 16 0) (n : Nat) :
    advanceXs1024^[n] u = ⟨u.s, u.p + BitVec.ofNat 4 n⟩ := by
  refine congrArg₂ Xs1024Regs.mk ?_ (advanceXs1024_iterate_cursor n u)
  rw [h, ← rotatedView_eq_zero_iff, rotatedView_iterate_advanceXs1024, (rotatedView_eq_zero_iff u).mpr h]
  exact Function.iterate_fixed viewLinear.advance_zero n

theorem nextXs1024_output_of_zero {u : Xs1024Regs} (h : u.s = Vector.replicate 16 0) : (nextXs1024 u).1 = 0 := by
  have hview : advanceView (rotatedView u) = Vector.replicate 16 0 :=
    (congrArg advanceView ((rotatedView_eq_zero_iff u).mpr h)).trans viewLinear.advance_zero
  rw [nextXs1024_output_of_view, hview, wordAt_zeros, mul_zero]

theorem jumpXs1024_of_zero {u : Xs1024Regs} (h : u.s = Vector.replicate 16 0) : jumpXs1024 u = u := by
  refine xs1024_ext ?_ (jumpXs1024_cursor u)
  rw [rotatedView_jumpXs1024, (rotatedView_eq_zero_iff u).mpr h]
  exact viewLinear.applyBits_zero _

/-- A run of draws from XS1024, by the states of its registers. -/
theorem draw_xs1024_eq (n : Nat) (s : State) : draw .xs1024 n s =
    ((List.range n).map fun k => (nextXs1024 (advanceXs1024^[k] s.xs1024)).1,
      { s with xs1024 := advanceXs1024^[n] s.xs1024 }) := by
  have hafter (n : Nat) : afterNexts .xs1024 n s = { s with xs1024 := advanceXs1024^[n] s.xs1024 } := by
    induction n with
    | zero => rfl
    | succ n ih =>
      rw [afterNexts, Function.iterate_succ_apply', ← afterNexts, ih, Function.iterate_succ_apply']
      rfl
  simp only [draw_eq_outputs, output, hafter]
  rfl

/-- A run of draws from sixteen zero words gives zeros and moves the cursor alone. -/
theorem draw_xs1024_of_zero (n : Nat) {s : State} (h : s.xs1024.s = Vector.replicate 16 0) : draw .xs1024 n s =
    (List.replicate n 0, { s with xs1024 := ⟨s.xs1024.s, BitVec.ofNat 4 (s.xs1024.p.toNat + n)⟩ }) := by
  have hcursor : s.xs1024.p + BitVec.ofNat 4 n = BitVec.ofNat 4 (s.xs1024.p.toNat + n) := by
    rw [BitVec.ofNat_add, BitVec.ofNat_toNat, BitVec.setWidth_eq]
  have hzeros (k : Nat) : (nextXs1024 (advanceXs1024^[k] s.xs1024)).1 = 0 := by
    rw [advanceXs1024_of_zero h]
    exact nextXs1024_output_of_zero h
  simp only [draw_xs1024_eq, hzeros, advanceXs1024_of_zero h n, hcursor, List.map_const', List.length_range]

/-- Settles O42: draws from zero words give zeros and move the cursor alone, and a jump moves nothing. -/
theorem xs1024StaysZero : Obligations.Xs1024StaysZero := by
  intro s n hp hv hzero
  refine ⟨?_, ?_, ?_⟩
  · rw [exec_of_needed (u := .xs1024) rfl rfl hp hv, ← nextOf, effectOf_nextOf, draw_xs1024_of_zero 1 hzero]
    rfl
  · rw [exec_of_needed (u := .xs1024) rfl rfl hp hv, effectOf, jumpXs1024_of_zero hzero]
    rfl
  · rw [exec_of_needed (u := .xs1024) rfl rfl hp hv, effectOf, draw_xs1024_of_zero n hzero]
    rfl

/-! ## The step can be undone (R98 item 1) -/

/-- The view before a step: its words 2 to 15 and 0 stand in the view after it, and word 1 is what the new word leaves when
the share of word 0 is taken off. -/
theorem advanceView_injective : Function.Injective advanceView := by
  intro v v' h
  have hword (j : BitVec 4) : wordAt (advanceView v) j = wordAt (advanceView v') j := by rw [h]
  simp only [wordAt_advanceView] at hword
  have hmoved (j : BitVec 4) (hj : j ≠ 1) : wordAt v j = wordAt v' j := by
    have hj' : j - 1 ≠ 0 := sub_ne_zero.mpr hj
    simpa only [if_neg hj', sub_add_cancel] using hword (j - 1)
  refine words_ext fun j => ?_
  by_cases hj : j = 1
  · have hnew := hword 0
    rw [if_pos rfl, if_pos rfl, hmoved 0 (by decide), BitVec.xor_left_inj] at hnew
    rw [hj]
    exact (xorShl_bijective (by decide)).injective ((xorShr_bijective (by decide)).injective hnew)
  · exact hmoved j hj

theorem advanceXs1024_injective : Function.Injective advanceXs1024 := by
  intro u v h
  have hview : advanceView (rotatedView u) = advanceView (rotatedView v) := by
    rw [← rotatedView_advanceXs1024, h, rotatedView_advanceXs1024]
  exact xs1024_ext (advanceView_injective hview) (add_right_cancel (congrArg Xs1024Regs.p h))

theorem finite_xs1024Regs : Finite Xs1024Regs := by
  refine Finite.of_injective (fun u => (fun j => wordAt u.s j, u.p)) fun u v h => ?_
  obtain ⟨hs, hp⟩ := Prod.mk.inj h
  exact congrArg₂ Xs1024Regs.mk (words_ext (congrFun hs)) hp

/-- Settles O44: the step is injective, so bijective on finitely many states, and linear in the view, so zero comes from zero
alone. -/
theorem xs1024NextIsInvertible : Obligations.Xs1024NextIsInvertible := by
  have := finite_xs1024Regs
  refine ⟨Finite.injective_iff_bijective.mp advanceXs1024_injective, fun k u hu => ?_⟩
  rw [ne_eq, ← rotatedView_eq_zero_iff, rotatedView_iterate_advanceXs1024]
  exact viewLinear.iterate_advance_ne_zero advanceView_injective k (mt (rotatedView_eq_zero_iff u).mp hu)

end Sys2Proof.Machine

/-! # Polynomials over GF(2) packed into numbers, multiplied by one product of numbers (R95) -/

namespace Sys2Proof.Machine

open Sys2Proof Sys2Proof.Claims

/-! ## Digits in base 2^16 -/

/-- Every digit of `n` in base 2^16 is at most `m`. -/
def DigitsAtMost (m n : Nat) : Prop := ∀ i, n / 65536 ^ i % 65536 ≤ m

section
variable {m m' a b : Nat}

theorem digitsAtMost_iff : DigitsAtMost m a ↔ a % 65536 ≤ m ∧ DigitsAtMost m (a / 65536) := by
  have hshift (i : Nat) : a / 65536 / 65536 ^ i = a / 65536 ^ (i + 1) := by rw [Nat.div_div_eq_div_mul, ← pow_succ']
  constructor
  · intro h
    exact ⟨by simpa using h 0, fun i => by rw [hshift]; exact h (i + 1)⟩
  · rintro ⟨hlow, hhigh⟩ (_ | i)
    · simpa using hlow
    · rw [← hshift]; exact hhigh i

theorem digitsAtMost_zero : DigitsAtMost m 0 := fun i => by simp

theorem DigitsAtMost.shift (h : DigitsAtMost m a) : DigitsAtMost m (65536 * a) :=
  digitsAtMost_iff.mpr ⟨by simp, by simpa using h⟩

/-- Digits that stay below 2^16 add without a carry. -/
theorem DigitsAtMost.add (ha : DigitsAtMost m a) (hb : DigitsAtMost m' b) (hm : m + m' < 65536) :
    DigitsAtMost (m + m') (a + b) := by
  intro i
  induction i generalizing a b with
  | zero =>
    have h0 := (digitsAtMost_iff.mp ha).1
    have h1 := (digitsAtMost_iff.mp hb).1
    simp only [pow_zero, Nat.div_one]
    omega
  | succ i ih =>
    obtain ⟨ha0, ha⟩ := digitsAtMost_iff.mp ha
    obtain ⟨hb0, hb⟩ := digitsAtMost_iff.mp hb
    have hcarry : (a + b) / 65536 = a / 65536 + b / 65536 := by omega
    rw [pow_succ', ← Nat.div_div_eq_div_mul, hcarry]
    exact ih ha hb

end

/-! ## Packing the bits of a polynomial as digits -/

/-- The number with the given bits as digits, the first bit as the lowest. -/
def pack : List Bool → Nat
  | [] => 0
  | b :: bs => b.toNat + 65536 * pack bs

theorem digitsAtMost_pack (bs : List Bool) : DigitsAtMost 1 (pack bs) := by
  induction bs with
  | nil => exact digitsAtMost_zero
  | cons b bs ih =>
    have hb := b.toNat_le
    have htail : (b.toNat + 65536 * pack bs) / 65536 = pack bs := by omega
    exact digitsAtMost_iff.mpr ⟨by rw [pack]; omega, by rwa [pack, htail]⟩

/-- The number with `k` digits 1. -/
def ones (k : Nat) : Nat := (65536 ^ k - 1) / 65535

theorem ones_succ (k : Nat) : ones (k + 1) = 1 + 65536 * ones k := by
  have hsum (k : Nat) : ones k = ∑ i ∈ Finset.range k, 65536 ^ i := (Nat.geomSum_eq (by decide) k).symm
  rw [hsum, hsum, geom_sum_succ, Nat.add_comm]

/-- Masking with `ones` keeps the parity of each digit. -/
theorem and_ones_succ (n k : Nat) : n &&& ones (k + 1) = n % 2 + 65536 * (n / 65536 &&& ones k) := by
  have hlow : (n &&& ones (k + 1)) % 65536 = n % 2 := by
    rw [ones_succ, Nat.and_mod_two_pow (n := 16), Nat.add_mul_mod_self_left, Nat.and_one_is_mod]
    exact Nat.mod_mod_of_dvd n (by decide)
  have hhigh : (n &&& ones (k + 1)) / 65536 = n / 65536 &&& ones k := by
    rw [ones_succ, Nat.and_div_two_pow (n := 16), Nat.add_mul_div_left _ _ (by decide)]
    exact congrArg _ (Nat.zero_add _)
  omega

theorem exists_pack_of_and_ones (n k : Nat) : ∃ bs : List Bool, bs.length = k ∧ n &&& ones k = pack bs := by
  induction k generalizing n with
  | zero => exact ⟨[], rfl, by simp [ones, pack]⟩
  | succ k ih =>
    obtain ⟨bs, hlen, hbs⟩ := ih (n / 65536)
    refine ⟨decide (n % 2 = 1) :: bs, by rw [List.length_cons, hlen], ?_⟩
    rw [and_ones_succ, hbs, pack]
    congr 1
    rcases Nat.mod_two_eq_zero_or_one n with h | h <;> simp [h]

/-! ## The polynomial of a number, in the step of a linear unit -/

namespace LinearUnit

section
variable {σ : Type} (M : LinearUnit σ)

/-- The polynomial whose coefficients are the digits of `n` modulo 2, in the step, applied to `u`. -/
def applyNumber (n : Nat) (u : σ) : σ := M.applyBits ((Nat.digits 65536 n).map fun d => decide (d % 2 = 1)) u

theorem applyBits_singleton (u : σ) : M.applyBits [true] u = u := M.zero_xor u

theorem applyNumber_zero (u : σ) : M.applyNumber 0 u = M.zero := rfl

theorem applyNumber_eq (n : Nat) (u : σ) : M.applyNumber n u =
    M.xor (if n % 2 = 1 then u else M.zero) (M.applyNumber (n / 65536) (M.advance u)) := by
  rcases Nat.eq_zero_or_pos n with rfl | hn
  · exact (M.xor_zero _).symm
  · rw [applyNumber, Nat.digits_def' (by decide) hn, List.map_cons, applyBits_cons]
    simp only [decide_eq_true_eq, show n % 65536 % 2 = n % 2 by omega]
    rfl

theorem applyNumber_shift (n : Nat) (u : σ) : M.applyNumber (65536 * n) u = M.applyNumber n (M.advance u) := by
  rw [applyNumber_eq, if_neg (by omega), show 65536 * n / 65536 = n by omega]
  exact M.zero_xor _

theorem applyNumber_pack (bs : List Bool) (u : σ) : M.applyNumber (pack bs) u = M.applyBits bs u := by
  induction bs generalizing u with
  | nil => rfl
  | cons b bs ih =>
    have hb := b.toNat_le
    rw [applyNumber_eq, applyBits_cons, pack, show (b.toNat + 65536 * pack bs) / 65536 = pack bs by omega, ih]
    congr 2
    cases b <;> simp <;> omega

/-- A sum without carries is the sum of the polynomials. -/
theorem applyNumber_add {m m' a b : Nat} (ha : DigitsAtMost m a) (hb : DigitsAtMost m' b) (hm : m + m' < 65536) (u : σ) :
    M.applyNumber (a + b) u = M.xor (M.applyNumber a u) (M.applyNumber b u) := by
  induction a using Nat.strongRecOn generalizing b u with
  | ind a ih =>
    rcases Nat.eq_zero_or_pos a with rfl | hpos
    · rw [Nat.zero_add, applyNumber_zero, M.zero_xor]
    · obtain ⟨ha0, ha⟩ := digitsAtMost_iff.mp ha
      obtain ⟨hb0, hb⟩ := digitsAtMost_iff.mp hb
      have hcarry : (a + b) / 65536 = a / 65536 + b / 65536 := by omega
      rw [M.applyNumber_eq a, M.applyNumber_eq b, M.applyNumber_eq (a + b), hcarry,
        ih (a / 65536) (by omega) ha hb, xor_xor_xor_comm]
      congr 1
      rcases Nat.mod_two_eq_zero_or_one a with h | h <;> rcases Nat.mod_two_eq_zero_or_one b with h' | h' <;>
        simp [Nat.add_mod, h, h', M.xor_zero, M.zero_xor, M.xor_self]

/-- The product with a packed polynomial: its digits, and the polynomials one after the other. -/
theorem applyNumber_mul {b : Nat} (hb : DigitsAtMost 1 b) (as : List Bool) (hlen : as.length < 65536) :
    DigitsAtMost as.length (pack as * b) ∧
      ∀ u, M.applyNumber (pack as * b) u = M.applyBits as (M.applyNumber b u) := by
  induction as with
  | nil => exact ⟨by simpa [pack] using digitsAtMost_zero, fun u => by simp [pack]; rfl⟩
  | cons a as ih =>
    rw [List.length_cons] at hlen
    obtain ⟨hdigits, happly⟩ := ih (by omega)
    have hhead : DigitsAtMost 1 (a.toNat * b) := by
      cases a
      · simpa using digitsAtMost_zero
      · simpa using hb
    have hsplit : pack (a :: as) * b = 65536 * (pack as * b) + a.toNat * b := by rw [pack]; ring
    rw [hsplit]
    refine ⟨hdigits.shift.add hhead hlen, fun u => ?_⟩
    rw [M.applyNumber_add hdigits.shift hhead hlen, applyNumber_shift, happly, M.xor_comm, applyBits_cons]
    congr 1
    · cases a <;> simp [applyNumber_zero]
    · rw [applyNumber, applyBits_advance]; rfl

/-- Masking with enough `ones` leaves the polynomial as it was. -/
theorem applyNumber_and_ones {n k : Nat} (h : n < 65536 ^ k) (u : σ) :
    M.applyNumber (n &&& ones k) u = M.applyNumber n u := by
  induction k generalizing n u with
  | zero =>
    obtain rfl : n = 0 := by simpa using h
    rw [Nat.zero_and]
  | succ k ih =>
    have hdiv : n / 65536 < 65536 ^ k := Nat.div_lt_of_lt_mul (by rwa [pow_succ'] at h)
    have hlow : (n % 2 + 65536 * (n / 65536 &&& ones k)) % 2 = n % 2 := by omega
    have hhigh : (n % 2 + 65536 * (n / 65536 &&& ones k)) / 65536 = n / 65536 &&& ones k := by omega
    rw [and_ones_succ, applyNumber_eq, hlow, hhigh, ih hdiv, ← applyNumber_eq]

end

end LinearUnit

end Sys2Proof.Machine

/-! # The power x^(2^512) modulo the characteristic polynomial of XS1024 (R95) -/

namespace Sys2Proof.Machine

open Sys2Proof Sys2Proof.Claims

/-- The polynomial `c` below degree 1024 with `T^1024 = c(T)` for the step `T` of XS1024; `view_reduces` says that it is. -/
def xs1024Residue : BitVec 1024 :=
  0x0000000000007879787878786D3815400440024003007B2853116C08605C805F#256 ++
  0xA1422CB7814F5C680040F0E46E848800CD40A7E2537771EABABAB341E2554B59#256 ++
  0xDF6A7CADBA32BCA9E860F083D70158C634B3216457D7B0284A32D044029B08F7#256 ++
  0x030D5352015561300111E1C02BC181802200AA001400F0001000000000000001#256

/-- The characteristic polynomial of XS1024, packed. -/
def packedModulus : Nat := pack (LinearUnit.bitsOf xs1024Residue ++ [true])

/-- The quotient of `x^2048` by the characteristic polynomial, without its leading term. Nothing rests on it but
`packedPower_jump`: a wrong quotient would leave no remainder below degree 1024, and `packedSquare` would answer none. -/
def xs1024Reciprocal : BitVec 1024 :=
  0x0000000000007879787878787878000111001100050005512C7804701874D021#256 ++
  0x31037BCC050F5F4786D2AEB2F433A713D4C572AD55909CBD534F09D864E36BCB#256 ++
  0x430A9A70E6759B1F6BA43AF98ED8308C8FDA20E898C26B2B5A71C15B48416CEB#256 ++
  0xCA4358A8308DC90455083300ED26A70EBFCCE33722B8E190B45194E4A7DD96A6#256

/-- The quotient of the square of `a` by the characteristic polynomial: what stands above `x^1024`, times the reciprocal. -/
def packedQuotient (a : Nat) : Nat :=
  (a * a &&& ones 2048) / 65536 ^ 1024 * pack (LinearUnit.bitsOf xs1024Reciprocal ++ [true]) / 65536 ^ 1024 &&& ones 1024

/-- The remainder of the square of `a`, where subtracting the multiple of the characteristic polynomial has left one. -/
def packedSquare (a : Nat) : Option Nat :=
  let n := a * a + packedQuotient a * packedModulus
  if n < 65536 ^ 2048 ∧ n &&& ones 2048 = n &&& ones 1024 then some (n &&& ones 1024) else none

/-- `x^(2^k)`, by `k` squarings of `x`. -/
def packedPower : Nat → Option Nat
  | 0 => some 65536
  | k + 1 => (packedPower k).bind packedSquare

/-- `a` is a packed polynomial below degree 1024. -/
def IsPacked (a : Nat) : Prop := ∃ bs : List Bool, bs.length = 1024 ∧ a = pack bs

section
variable {σ : Type} {M : LinearUnit σ} (hc : ∀ u, M.Reduces xs1024Residue u)
include hc

theorem applyNumber_packedModulus (u : σ) : M.applyNumber packedModulus u = M.zero := by
  have hlen : (LinearUnit.bitsOf xs1024Residue).length = 1024 := by simp [LinearUnit.bitsOf]
  have hpower : M.advance^[1024] u = M.applyBits (LinearUnit.bitsOf xs1024Residue) u := hc u
  rw [packedModulus, LinearUnit.applyNumber_pack, LinearUnit.applyBits_append, hlen, LinearUnit.applyBits_singleton, hpower,
    M.xor_self]

/-- The packed square acts as the polynomial twice: the multiple of the characteristic polynomial acts as zero. -/
theorem packedSquare_spec {a r : Nat} (ha : IsPacked a) (h : packedSquare a = some r) :
    IsPacked r ∧ ∀ u, M.applyNumber r u = M.applyNumber a (M.applyNumber a u) := by
  obtain ⟨as, hlen, rfl⟩ := ha
  obtain ⟨qs, hqlen, hq⟩ := exists_pack_of_and_ones _ 1024
  rw [packedSquare, packedQuotient, hq] at h
  obtain ⟨⟨hbound, hhigh⟩, hsome⟩ := Option.ite_none_right_eq_some.mp h
  cases hsome
  refine ⟨exists_pack_of_and_ones _ _, fun u => ?_⟩
  obtain ⟨hdigits, hsquare⟩ := M.applyNumber_mul (digitsAtMost_pack as) as (by omega)
  obtain ⟨hqdigits, hmultiple⟩ := M.applyNumber_mul (b := packedModulus) (digitsAtMost_pack _) qs (by omega)
  rw [← hhigh, M.applyNumber_and_ones hbound, M.applyNumber_add hdigits hqdigits (by omega), hsquare, hmultiple,
    applyNumber_packedModulus hc, LinearUnit.applyBits_zero, M.xor_zero, ← LinearUnit.applyNumber_pack]

theorem packedPower_spec {k a : Nat} (h : packedPower k = some a) :
    IsPacked a ∧ ∀ u, M.applyNumber a u = M.advance^[2 ^ k] u := by
  induction k generalizing a with
  | zero =>
    obtain rfl : 65536 = a := Option.some.inj h
    have hmask : 65536 &&& ones 1024 = 65536 := by decide +kernel
    refine ⟨hmask ▸ exists_pack_of_and_ones 65536 1024, fun u => ?_⟩
    rw [show 65536 = pack [false, true] from rfl, LinearUnit.applyNumber_pack, LinearUnit.applyBits_cons,
      LinearUnit.applyBits_singleton]
    exact M.zero_xor _
  | succ k ih =>
    obtain ⟨b, hb, hsquare⟩ := Option.bind_eq_some_iff.mp h
    obtain ⟨hpacked, happly⟩ := ih hb
    obtain ⟨hpacked', happly'⟩ := packedSquare_spec hc hpacked hsquare
    refine ⟨hpacked', fun u => ?_⟩
    rw [happly', happly, happly, ← Function.iterate_add_apply, pow_succ, mul_two]

end

/-- The jump polynomial of XS1024 is `x^(2^512)`: 512 squarings, evaluated by the kernel. -/
theorem packedPower_jump : packedPower 512 = some (pack (polynomialBits Config.jump1024)) := by decide +kernel

end Sys2Proof.Machine

/-! # The characteristic polynomial of XS1024, checked on 64 states at once (R95) -/

namespace Sys2Proof.Machine

open Sys2Proof Sys2Proof.Claims

/-! ## 64 words in one, bit by bit side by side -/

/-- Word `i` of the 64: its bit `b` stands at bit `64 b + i`, so that one shift moves all of them and none runs into another. -/
def lane (y : BitVec 4096) (i : Nat) : Word64 := BitVec.ofFnLE fun b : Fin 64 => y.getLsbD (64 * b.val + i)

theorem getLsbD_lane (y : BitVec 4096) (i b : Nat) :
    (lane y i).getLsbD b = (decide (b < 64) && y.getLsbD (64 * b + i)) := by
  rw [lane, BitVec.getLsbD_ofFnLE]
  split <;> simp [*]

theorem lane_xor (y z : BitVec 4096) (i : Nat) : lane (y ^^^ z) i = lane y i ^^^ lane z i := by
  apply BitVec.eq_of_getLsbD_eq
  intro b hb
  rw [BitVec.getLsbD_xor, getLsbD_lane, getLsbD_lane, getLsbD_lane, BitVec.getLsbD_xor, Bool.and_xor_distrib_left]

section
variable {i : Nat} (hi : i < 64)
include hi

theorem lane_shiftLeft (y : BitVec 4096) (k : Nat) : lane (y <<< (64 * k)) i = shl64 (lane y i) k := by
  apply BitVec.eq_of_getLsbD_eq
  intro b hb
  rw [shl64, BitVec.getLsbD_shiftLeft, getLsbD_lane, getLsbD_lane, BitVec.getLsbD_shiftLeft]
  by_cases hbk : b < k
  · simp [hbk, show 64 * b + i < 64 * k by omega]
  · simp [hbk, hb, show ¬ 64 * b + i < 64 * k by omega, show 64 * b + i < 4096 by omega, show b - k < 64 by omega,
      show 64 * b + i - 64 * k = 64 * (b - k) + i by omega]

theorem lane_shiftRight (y : BitVec 4096) (k : Nat) : lane (y >>> (64 * k)) i = shr64 (lane y i) k := by
  apply BitVec.eq_of_getLsbD_eq
  intro b hb
  rw [shr64, BitVec.getLsbD_ushiftRight, getLsbD_lane, getLsbD_lane, BitVec.getLsbD_ushiftRight,
    show 64 * k + (64 * b + i) = 64 * (k + b) + i by omega]
  by_cases hbk : k + b < 64
  · simp [hb, hbk]
  · simp [hbk, BitVec.getLsbD_of_ge y (64 * (k + b) + i) (by omega)]

end

/-! ## 64 views in one, and their step -/

/-- The 64 words at place `j` of the 64 views. -/
def place (v : BitVec 65536) (j : BitVec 4) : BitVec 4096 := v.extractLsb' (4096 * j.toNat) 4096

/-- View `i` of the 64. -/
def laneView (v : BitVec 65536) (i : Nat) : Vector Word64 16 := Vector.ofFn fun j : Fin 16 => lane (place v ⟨j⟩) i

theorem wordAt_laneView (v : BitVec 65536) (i : Nat) (j : BitVec 4) : wordAt (laneView v i) j = lane (place v j) i :=
  wordAt_ofFn (fun j => lane (place v ⟨j⟩) i) j

theorem laneView_xor (v w : BitVec 65536) (i : Nat) : laneView (v ^^^ w) i = xorWords (laneView v i) (laneView w i) := by
  refine words_ext fun j => ?_
  rw [wordAt_xorWords, wordAt_laneView, wordAt_laneView, wordAt_laneView, ← lane_xor]
  exact congrArg (lane · i) BitVec.extractLsb'_xor

/-- The 64 new words, from the words at places 1 and 0 (R93). -/
def newLanes (y x : BitVec 4096) : BitVec 4096 :=
  let y' := y ^^^ (y <<< (64 * 31))
  y' ^^^ (y' >>> (64 * 11)) ^^^ (x ^^^ (x >>> (64 * 30)))

theorem lane_newLanes {i : Nat} (hi : i < 64) (y x : BitVec 4096) :
    lane (newLanes y x) i = xorShr 11 (xorShl 31 (lane y i)) ^^^ xorShr 30 (lane x i) := by
  simp only [newLanes, xorShr, xorShl, lane_xor, lane_shiftLeft hi, lane_shiftRight hi]

/-- One step of all 64 views: the new words go to place 0, places 2 to 15 move down by one, place 0 moves to place 15. -/
def advanceLanes (v : BitVec 65536) : BitVec 65536 :=
  v >>> 8192 <<< 4096 ^^^ v <<< 61440 ^^^ (newLanes (place v 1) (place v 0)).setWidth 65536

theorem getLsbD_advanceLanes (v : BitVec 65536) {m : Nat} (hm : m < 65536) : (advanceLanes v).getLsbD m =
    if m < 4096 then (newLanes (place v 1) (place v 0)).getLsbD m
    else if m < 61440 then v.getLsbD (m + 4096) else v.getLsbD (m - 61440) := by
  simp only [advanceLanes, BitVec.getLsbD_xor, BitVec.getLsbD_shiftLeft, BitVec.getLsbD_ushiftRight,
    BitVec.getLsbD_setWidth, hm, decide_true, Bool.true_and]
  split_ifs with hfirst hlast
  · simp [hfirst, show m < 61440 by omega]
  · simp [hfirst, hlast, show 8192 + (m - 4096) = m + 4096 by omega, BitVec.getLsbD_of_ge _ m (Nat.not_lt.mp hfirst)]
  · simp [hfirst, hlast, BitVec.getLsbD_of_ge v (8192 + (m - 4096)) (by omega),
      BitVec.getLsbD_of_ge _ m (Nat.not_lt.mp hfirst)]

theorem getLsbD_place (v : BitVec 65536) (j : BitVec 4) {b : Nat} (hb : b < 4096) :
    (place v j).getLsbD b = v.getLsbD (4096 * j.toNat + b) := by
  rw [place, BitVec.getLsbD_extractLsb', decide_eq_true hb, Bool.true_and]

theorem place_advanceLanes (v : BitVec 65536) (j : BitVec 4) :
    place (advanceLanes v) j = if j = 0 then newLanes (place v 1) (place v 0) else place v (j + 1) := by
  apply BitVec.eq_of_getLsbD_eq
  intro b hb
  have hj := j.isLt
  rw [getLsbD_place _ _ hb, getLsbD_advanceLanes v (by omega)]
  by_cases hzero : j = 0
  · rw [if_pos hzero, hzero]
    simp [hb]
  · have hpos : j.toNat ≠ 0 := fun h => hzero (BitVec.eq_of_toNat_eq h)
    rw [if_neg hzero, if_neg (by omega), getLsbD_place _ _ hb, BitVec.toNat_add, show (1 : BitVec 4).toNat = 1 from rfl]
    split_ifs with hlast
    · exact congrArg v.getLsbD (by omega)
    · exact congrArg v.getLsbD (by omega)

theorem laneView_advanceLanes {i : Nat} (hi : i < 64) (v : BitVec 65536) :
    laneView (advanceLanes v) i = advanceView (laneView v i) := by
  refine words_ext fun j => ?_
  simp only [wordAt_advanceView, wordAt_laneView, place_advanceLanes, ← lane_newLanes hi]
  exact apply_ite (lane · i) ..

/-! ## The characteristic polynomial on the words of one bit at place 15 -/

/-- In lane `i`, bit `i` alone. -/
def diagonal : BitVec 4096 := BitVec.ofNat 4096 ((2 ^ (65 * 64) - 1) / (2 ^ 65 - 1))

theorem getLsbD_diagonal : ∀ i < 64, ∀ b < 64, diagonal.getLsbD (64 * b + i) = decide (i = b) := by decide +kernel

theorem lane_diagonal {i : Nat} (hi : i < 64) : lane diagonal i = BitVec.twoPow 64 i := by
  apply BitVec.eq_of_getLsbD_eq
  intro b hb
  rw [getLsbD_lane, getLsbD_diagonal i hi b hb, BitVec.getLsbD_twoPow, decide_eq_true hb, decide_eq_true hi]

theorem lane_zero (i : Nat) : lane 0 i = 0 := by
  apply BitVec.eq_of_getLsbD_eq
  intro b _
  simp [getLsbD_lane]

theorem laneView_zero (i : Nat) : laneView 0 i = Vector.replicate 16 0 := by
  refine words_ext fun j => ?_
  rw [wordAt_laneView, wordAt_zeros, ← lane_zero i]
  exact congrArg (lane · i) BitVec.extractLsb'_zero

/-- 64 views with the words `y` at place 15, all else 0. -/
def lastPlaceLanes (y : BitVec 4096) : BitVec 65536 := y.setWidth 65536 <<< 61440

theorem place_lastPlaceLanes (y : BitVec 4096) (j : BitVec 4) : place (lastPlaceLanes y) j = if 15 = j then y else 0 := by
  apply BitVec.eq_of_getLsbD_eq
  intro b hb
  have hj := j.isLt
  rw [getLsbD_place _ _ hb, lastPlaceLanes, BitVec.getLsbD_shiftLeft, BitVec.getLsbD_setWidth]
  split_ifs with hlast
  · have hj15 : j.toNat = 15 := by rw [← hlast]; rfl
    simp [hj15, show b < 65536 by omega, show 61440 + b < 65536 by omega]
  · have hlow : j.toNat ≠ 15 := fun h => hlast (BitVec.eq_of_toNat_eq h.symm)
    simp [show 4096 * j.toNat + b < 61440 by omega]

/-- The view with one word, all else 0. -/
def oneWordView (j : BitVec 4) (w : Word64) : Vector Word64 16 := putWord (Vector.replicate 16 0) j w

theorem wordAt_oneWordView (j k : BitVec 4) (w : Word64) : wordAt (oneWordView j w) k = if j = k then w else 0 := by
  rw [oneWordView, wordAt_putWord, wordAt_zeros]

theorem laneView_start {i : Nat} (hi : i < 64) :
    laneView (lastPlaceLanes diagonal) i = oneWordView 15 (BitVec.twoPow 64 i) := by
  refine words_ext fun j => ?_
  rw [wordAt_laneView, wordAt_oneWordView, place_lastPlaceLanes, apply_ite (lane · i), lane_diagonal hi, lane_zero]

/-- 1024 steps of 64 views at once, evaluated by the kernel. -/
theorem advanceLanes_start_reduces : advanceLanes^[1024] (lastPlaceLanes diagonal) =
    (jumpLoop (· ^^^ ·) id advanceLanes (LinearUnit.bitsOf xs1024Residue) 0 (lastPlaceLanes diagonal)).1 := by
  decide +kernel

theorem laneView_jumpLoop {i : Nat} (hi : i < 64) (bits : List Bool) (acc v : BitVec 65536) :
    laneView (jumpLoop (· ^^^ ·) id advanceLanes bits acc v).1 i =
      (jumpLoop xorWords id advanceView bits (laneView acc i) (laneView v i)).1 := by
  induction bits generalizing acc v with
  | nil => rfl
  | cons b bs ih =>
    rw [jumpLoop, jumpLoop, ih, laneView_advanceLanes hi, apply_ite (laneView · i), laneView_xor]
    rfl

theorem reduces_last_bit {i : Nat} (hi : i < 64) :
    viewLinear.Reduces xs1024Residue (oneWordView 15 (BitVec.twoPow 64 i)) := by
  have hiterate : laneView (advanceLanes^[1024] (lastPlaceLanes diagonal)) i =
      advanceView^[1024] (laneView (lastPlaceLanes diagonal) i) :=
    (Function.Semiconj.iterate_right (f := (laneView · i)) (laneView_advanceLanes hi) 1024) _
  rw [advanceLanes_start_reduces, laneView_jumpLoop hi, laneView_start hi, laneView_zero] at hiterate
  exact hiterate.symm

/-! ## The characteristic polynomial on every view -/

theorem advanceView_oneWordView {j : BitVec 4} (h0 : j ≠ 0) (h1 : j ≠ 1) (w : Word64) :
    advanceView (oneWordView j w) = oneWordView (j - 1) w := by
  refine words_ext fun k => ?_
  simp only [wordAt_advanceView, wordAt_oneWordView, if_neg h0, if_neg h1, sub_eq_iff_eq_add]
  split
  · next hk => rw [hk, zero_add, if_neg h1]; rfl
  · rfl

theorem advanceView_oneWordView_one (w : Word64) :
    advanceView (oneWordView 1 w) = oneWordView 0 (xorShr 11 (xorShl 31 w)) := by
  refine words_ext fun k => ?_
  have hne : ¬ (1 : BitVec 4) = 0 := by decide
  simp only [wordAt_advanceView, wordAt_oneWordView, ↓reduceIte, hne, right_eq_add, eq_comm (a := (0 : BitVec 4))]
  split
  · exact BitVec.xor_zero
  · rfl

theorem oneWordView_zero (j : BitVec 4) : oneWordView j 0 = Vector.replicate 16 0 :=
  words_ext fun k => by rw [wordAt_oneWordView, wordAt_zeros, ite_self]

theorem oneWordView_xor (j : BitVec 4) (w w' : Word64) :
    xorWords (oneWordView j w) (oneWordView j w') = oneWordView j (w ^^^ w') := by
  refine words_ext fun k => ?_
  simp only [wordAt_xorWords, wordAt_oneWordView]
  split <;> simp

theorem reduces_last_word (w : Word64) : viewLinear.Reduces xs1024Residue (oneWordView 15 w) := by
  induction w using word_xor_induction with
  | zero => exact oneWordView_zero 15 ▸ LinearUnit.reduces_zero
  | xor v w hv hw => exact oneWordView_xor 15 v w ▸ hv.xor hw
  | bit i hi => exact reduces_last_bit hi

/-- The step moves a word at place 15 down to every place above 0. -/
theorem reduces_below_last_word {n : Nat} (hn : n < 15) (w : Word64) :
    viewLinear.Reduces xs1024Residue (oneWordView (15 - BitVec.ofNat 4 n) w) := by
  induction n with
  | zero => exact reduces_last_word w
  | succ n ih =>
    have hplace : 15 - BitVec.ofNat 4 (n + 1) = 15 - BitVec.ofNat 4 n - 1 := by rw [BitVec.ofNat_add, sub_sub]; rfl
    have hne (m : Nat) (hm : m < 2) : 15 - BitVec.ofNat 4 n ≠ BitVec.ofNat 4 m := by
      intro h
      have hnat := congrArg BitVec.toNat h
      rw [BitVec.toNat_sub, BitVec.toNat_ofNat, BitVec.toNat_ofNat, show (15 : BitVec 4).toNat = 15 from rfl] at hnat
      omega
    rw [hplace, ← advanceView_oneWordView (hne 0 (by decide)) (hne 1 (by decide))]
    exact (ih (by omega)).advance

/-- One word at any place: at place 0 it comes by one step from a word at place 1. -/
theorem reduces_oneWordView (j : BitVec 4) (w : Word64) : viewLinear.Reduces xs1024Residue (oneWordView j w) := by
  by_cases hj : j = 0
  · obtain ⟨w', rfl⟩ := (xorShr_bijective (k := 11) (by decide)).surjective w
    obtain ⟨w'', rfl⟩ := (xorShl_bijective (k := 31) (by decide)).surjective w'
    rw [hj, ← advanceView_oneWordView_one]
    exact (reduces_below_last_word (n := 14) (by decide) w'').advance
  · have hpos : j.toNat ≠ 0 := fun h => hj (BitVec.eq_of_toNat_eq h)
    have hplace : 15 - BitVec.ofNat 4 (15 - j.toNat) = j := by
      apply BitVec.eq_of_toNat_eq
      rw [BitVec.toNat_sub, BitVec.toNat_ofNat, show (15 : BitVec 4).toNat = 15 from rfl]
      omega
    exact hplace ▸ reduces_below_last_word (by omega) w

/-- The first `k` words of a view, the others 0. -/
def firstWords (v : Vector Word64 16) (k : Nat) : Vector Word64 16 :=
  Vector.ofFn fun j : Fin 16 => if j.val < k then v[j] else 0

theorem wordAt_firstWords (v : Vector Word64 16) (k : Nat) (j : BitVec 4) :
    wordAt (firstWords v k) j = if j.toNat < k then wordAt v j else 0 :=
  wordAt_ofFn (fun j => if j.val < k then v[j] else 0) j

theorem firstWords_succ (v : Vector Word64 16) {k : Nat} (hk : k < 16) : firstWords v (k + 1) =
    xorWords (firstWords v k) (oneWordView (BitVec.ofNat 4 k) (wordAt v (BitVec.ofNat 4 k))) := by
  refine words_ext fun j => ?_
  have hplace : BitVec.ofNat 4 k = j ↔ k = j.toNat := by
    rw [← BitVec.toNat_inj, BitVec.toNat_ofNat, Nat.mod_eq_of_lt hk]
  rw [wordAt_xorWords, wordAt_firstWords, wordAt_firstWords, wordAt_oneWordView]
  rcases Nat.lt_trichotomy j.toNat k with h | h | h
  · simp [hplace, h, Nat.lt_succ_of_lt h, Nat.ne_of_gt h]
  · subst h
    simp
  · simp [hplace, Nat.not_lt_of_gt h, Nat.not_le_of_gt h, Nat.ne_of_lt h]

/-- What holds of zero and of the views of one word and is kept by XOR holds of every view. -/
theorem view_xor_induction {P : Vector Word64 16 → Prop} (zero : P (Vector.replicate 16 0))
    (xor : ∀ a b, P a → P b → P (xorWords a b)) (word : ∀ j w, P (oneWordView j w)) (v : Vector Word64 16) : P v := by
  have hfirst (k : Nat) (hk : k ≤ 16) : P (firstWords v k) := by
    induction k with
    | zero =>
      have hnone : firstWords v 0 = Vector.replicate 16 0 := words_ext fun j => by
        rw [wordAt_firstWords, wordAt_zeros, if_neg (Nat.not_lt_zero _)]
      exact hnone ▸ zero
    | succ k ih => exact firstWords_succ v hk ▸ xor _ _ (ih (by omega)) (word _ _)
  have hall : firstWords v 16 = v := words_ext fun j => by rw [wordAt_firstWords, if_pos j.isLt]
  exact hall ▸ hfirst 16 le_rfl

theorem view_reduces (v : Vector Word64 16) : viewLinear.Reduces xs1024Residue v :=
  view_xor_induction LinearUnit.reduces_zero (fun _ _ ha hb => ha.xor hb) reduces_oneWordView v

/-! ## The jump is 2^512 steps (R94, R95) -/

theorem jumpXs1024_eq_iterate (u : Xs1024Regs) : jumpXs1024 u = advanceXs1024^[2 ^ 512] u := by
  have hcursor : BitVec.ofNat 4 (2 ^ 512) = 0 :=
    BitVec.eq_of_toNat_eq ((BitVec.toNat_ofNat _ _).trans (Nat.mod_eq_zero_of_dvd (pow_dvd_pow 2 (by decide))))
  refine xs1024_ext ?_ ?_
  · rw [rotatedView_jumpXs1024, rotatedView_iterate_advanceXs1024, ← LinearUnit.applyNumber_pack]
    exact (packedPower_spec view_reduces packedPower_jump).2 _
  · rw [jumpXs1024_cursor, advanceXs1024_iterate_cursor, hcursor]
    exact (add_zero u.p).symm

/-- Settles O49: 2^512 steps are the polynomial `x^(2^512)` in the step, which is the jump polynomial modulo the
characteristic one. -/
theorem jumpXs1024IsTwoToThe512Steps : Obligations.JumpXs1024IsTwoToThe512Steps := by
  intro s hp hv
  rw [exec_of_needed (u := .xs1024) rfl rfl hp hv, ← jumpXs1024_eq_iterate]
  rfl

end Sys2Proof.Machine

/-! # Seeding one unit from another (R100 to R107) -/

namespace Sys2Proof.Machine

open Sys2Proof Sys2Proof.Claims

/-! ## The two phases of `SEED` (R100) -/

/-- What `SEED target, source` leaves before its answer: the target constructed from a run of draws of the source.
`exec_seedOf` ties it to the model. -/
def seeded (target source : UnitId) (s : State) : State :=
  construct target (draw source target.stateSize s).1 (draw source target.stateSize s).2

section
variable {target source : UnitId} {s : State}

theorem exec_seedOf (hp : s.payload = []) (hv : s.valid.get source = true) :
    exec (seedOf target source) s = .next ((seeded target source s).answer .ok []) := by
  rw [exec_of_needed (payloadWords_seedOf target source) (neededUnit_seedOf target source) hp hv, effectOf_seedOf, seeded]

@[simp] theorem seeded_responses : (seeded target source s).responses = s.responses := by
  rw [seeded, construct_responses, draw_responses]

@[simp] theorem seeded_valid : (seeded target source s).valid = s.valid.mark target := by
  rw [seeded, construct_valid _ _ _ (draw_length ..), draw_valid]

/-- The target reads out as the words drawn, with the cursor at 0 for `XS1024` (R107). -/
theorem readOut_seeded : readOut target (seeded target source s) =
    (draw source target.stateSize s).1 ++ (if target = .xs1024 then [0] else []) :=
  readOut_construct _ _ _ (draw_length ..)

/-- A source that is not the target is left where the draws leave it. -/
theorem sameUnit_draw_seeded (h : source ≠ target) :
    SameUnit source (draw source target.stateSize s).2 (seeded target source s) :=
  (changesOnly_construct (draw_length ..) _).sameUnit source h

end

/-! ## The rule of `SEED` (R100 to R104, R106) -/

/-- The number of the source stands in bits 25:24 of the word (R40). -/
theorem operationWord_seed (target source : UnitId) : operationWord .seed target source 0 =
    operationWord .seed target .sm64 0 ||| ((unitNumber source).setWidth 32 <<< 24) := by
  cases target <;> cases source <;> rfl

@[simp] theorem afterNexts_valid (u : UnitId) (n : Nat) (s : State) : (afterNexts u n s).valid = s.valid := by
  rw [← draw_valid u n s, draw_eq_outputs]

/-- Settles O35: for each target its row of the opcode map, with the construction from the source's next outputs as
effect. -/
theorem seedRule : Obligations.SeedRule := fun source =>
  ⟨followsRule_of_selects (.seed .sm64 source) (by decide) (operationWord_seed .sm64 source) rfl rfl fun st => by
      simp [effectOf, construct_sm64_of_length, draw_eq_outputs],
    followsRule_of_selects (.seed .xs128 source) (by decide) (operationWord_seed .xs128 source) rfl rfl fun st => by
      simp [effectOf, construct_xs128_of_length, draw_eq_outputs],
    followsRule_of_selects (.seed .xo128 source) (by decide) (operationWord_seed .xo128 source) rfl rfl fun st => by
      simp [effectOf, construct_xo128_of_length, draw_eq_outputs],
    followsRule_of_selects (.seed .xs1024 source) (by decide) (operationWord_seed .xs1024 source) rfl rfl fun st => by
      simp [effectOf, construct_xs1024_of_length, draw_eq_outputs]⟩

/-! ## `SEED` beside `GEN` (R107) -/

@[simp] theorem readOut_answer (u : UnitId) (s : State) (st : Status) (data : List Word64) :
    readOut u (s.answer st data) = readOut u s := by cases u <;> rfl

theorem exec_rdsOf {u : UnitId} {s : State} (hp : s.payload = []) (hv : s.valid.get u = true) :
    exec (rdsOf u) s = .next (s.answer .ok (readOut u s)) := by
  rw [exec_of_needed (payloadWords_rdsOf u) (neededUnit_rdsOf u) hp hv, effectOf_rdsOf]

theorem exec_genOf {u : UnitId} {s : State} (n : Nat) (hp : s.payload = []) (hv : s.valid.get u = true) :
    exec (genOf u n) s = .next ((draw u n s).2.answer .ok (draw u n s).1) := by
  rw [exec_of_needed (payloadWords_genOf u n) (neededUnit_genOf u n) hp hv, effectOf_genOf]

/-- Settles O54: the target is constructed from the words `GEN` answers, which it reads out, and the source is not touched
after the draws. -/
theorem seedReadsOutAsGen : Obligations.SeedReadsOutAsGen := by
  intro target source s hne hp hv
  refine ⟨(draw source target.stateSize s).1, _, _, _, exec_seedOf hp hv, exec_rdsOf rfl (by simp),
    exec_genOf _ hp hv, by simp, by simp [readOut_seeded], ?_⟩
  have hsource : SameUnit source (draw source target.stateSize s).2 ((seeded target source s).answer .ok []) :=
    sameUnit_answer (sameUnit_draw_seeded hne.symm) _ _
  exact sameUnit_answer (sameUnit_symm hsource) _ _

/-! ## The two commands of `SEEDSM` (R105) -/

theorem expandSeedsm_eq (target : UnitId) (seed : Word64) : expandSeedsm target seed =
    [⟨0x30000000, [seed]⟩, ⟨0x50000000 ||| ((unitNumber target).setWidth 32 <<< 26), []⟩] := by
  cases target <;> rfl

/-- A step on the word of a well-formed instruction runs that instruction on the accepted command. -/
theorem step_of_encode {s : State} {i : Instr} {payload : List Word64} {rest : List Input} (hi : i.wellFormed = true)
    (hin : s.input = .command ⟨encode i, payload⟩ :: rest) :
    step s = exec i (acceptCommand ⟨encode i, payload⟩ s) := by
  rw [step_command hin, decodeOfEncode i hi]

/-- The first command: `LDS SM64, seed` sets the counter and its flag (R61). -/
theorem step_ldsSm64 {s : State} {seed : Word64} {rest : List Input}
    (hin : s.input = .command ⟨encode .ldsSm64, [seed]⟩ :: rest) :
    ∃ t, step s = .next t ∧ t.input = rest ∧ t.responses = s.responses ++ [⟨.ok, []⟩] ∧
      t.sm.x = seed ∧ t.valid.get .sm64 = true :=
  ⟨_, (step_of_encode rfl hin).trans (exec_of_checked rfl (by simp [neededUnit])), congrArg List.tail hin, rfl, rfl, rfl⟩

/-- The second command: `SEED target, source` from a constructed source. -/
theorem step_seedOf {s : State} {target source : UnitId} {rest : List Input}
    (hin : s.input = .command (bareCommand (seedOf target source)) :: rest) (hv : s.valid.get source = true) :
    step s = .next ((seeded target source (acceptCommand (bareCommand (seedOf target source)) s)).answer .ok []) :=
  (step_of_encode ((Selects.seed target source).wellFormed_iff.mpr (by decide)) hin).trans (exec_seedOf rfl hv)

/-- A unit seeded from SM64 reads out as the first outputs of SplitMix64 from the counter. -/
theorem readOut_seeded_sm64 (target : UnitId) (s : State) : readOut target (seeded target .sm64 s) =
    ((List.range target.stateSize).map fun k => mixer (s.sm.x + BitVec.ofNat 64 (k + 1) * gamma)) ++
      (if target = .xs1024 then [0] else []) := by
  simp only [readOut_seeded, draw_eq_outputs, output_sm64]

theorem seeded_sm64_counter {target : UnitId} (h : target ≠ .sm64) (s : State) :
    (seeded target .sm64 s).sm.x = s.sm.x + BitVec.ofNat 64 target.stateSize * gamma := by
  rw [seeded, construct_sm _ _ _ h, draw_eq_outputs, afterNexts_sm64_counter]

/-- Settles O55: the first command sets the counter to the seed, and the draws of the second start there. -/
theorem seedsmRule : Obligations.SeedsmRule := by
  intro target seed
  refine ⟨expandSeedsm_eq target seed, fun s hin => ?_⟩
  obtain ⟨loaded, hload, hinput, hresp, rfl, hvalid⟩ := step_ldsSm64 hin
  refine ⟨_, (run_step hload).trans (run_step (step_seedOf hinput hvalid)), ?_, ?_, ?_, ?_, fun h => ?_⟩
  · simp [hresp]
  · simp
  · rw [answer_valid, seeded_valid]
    exact get_mark_mono _ _ .sm64 hvalid
  · rw [readOut_answer]
    exact readOut_seeded_sm64 target _
  · exact seeded_sm64_counter h _

end Sys2Proof.Machine

/-! # Bulk generation (R110 to R115) -/

namespace Sys2Proof.Machine

open Sys2Proof Sys2Proof.Claims

/-! ## The rule of `GEN` (R110 to R114) -/

/-- The count stands in bits 15:0 of the word (R40), so it adds to the word of count 0. -/
theorem operationWord_gen (u : UnitId) {n : Nat} (hn : n < 65536) :
    operationWord .gen u .sm64 n = operationWord .gen u .sm64 0 + BitVec.ofNat 32 n := by
  have hcount : BitVec.ofNat 32 n = (0 : BitVec 16) ++ BitVec.ofNat 16 n := by
    have hfits : n < 2 ^ 32 := by omega
    apply BitVec.eq_of_toNat_eq
    rw [BitVec.toNat_append, BitVec.toNat_ofNat, BitVec.toNat_ofNat, Nat.mod_eq_of_lt hn, Nat.mod_eq_of_lt hfits]
    exact (Nat.zero_or n).symm
  have hand : operationWord .gen u .sm64 0 &&& BitVec.ofNat 32 n = 0 := by
    rw [hcount, operationWord, packFields, BitVec.and_append]
    simp
  rw [BitVec.add_eq_or_of_and_eq_zero _ _ hand, hcount, operationWord, operationWord, packFields, packFields,
    BitVec.or_append]
  simp

/-- `GEN u, n` follows its row of the opcode map, with a run of `n` draws as effect. -/
theorem followsRule_genOf (u : UnitId) {n : Nat} (hn : n < 65536) :
    FollowsRule (genOf u n) (operationWord .gen u .sm64 0 + BitVec.ofNat 32 n) 0x03FF0000 (fun s => s.valid.get u)
      (afterNexts u n) (fun s => (List.range n).map fun k => output u k s) :=
  followsRule_of_selects (.gen u n) hn (operationWord_gen u hn) rfl (neededUnit_genOf u n) fun s => by
    rw [effectOf_genOf, draw_eq_outputs]

theorem afterNexts_xs1024_cursor (n : Nat) (s : State) :
    (afterNexts .xs1024 n s).xs1024.p.toNat = (s.xs1024.p.toNat + n) % 16 := by
  rw [← draw_xs1024_cursor, draw_eq_outputs]

/-- Settles O36: the rule of each unit is the one rule of `GEN` at that unit, and `n` draws move the cursor by `n`. -/
theorem genRule : Obligations.GenRule := fun n hn =>
  ⟨followsRule_genOf .sm64 hn, followsRule_genOf .xs128 hn, followsRule_genOf .xo128 hn, followsRule_genOf .xs1024 hn,
    afterNexts_xs1024_cursor n⟩

/-! ## `GEN` beside repeated `NEXT` (R115 item 1) -/

theorem exec_nextOf {u : UnitId} {s : State} (hp : s.payload = []) (hv : s.valid.get u = true) :
    exec (nextOf u) s = .next ((nextUnit u s).2.answer .ok [(nextUnit u s).1]) := by
  rw [exec_of_needed (payloadWords_nextOf u) (neededUnit_nextOf u) hp hv, effectOf_nextOf, draw_succ, draw_zero]

/-- With no payload left, an answer changes the record of responses alone. -/
theorem answer_eq_withResponses {s : State} (hp : s.payload = []) (st : Status) (data : List Word64) :
    s.answer st data = s.withResponses (s.responses ++ [⟨st, data⟩]) := by
  rw [State.answer, State.withResponses, ← hp]

theorem execTimes_succ {i : Instr} {s t : State} (h : exec i s = .next t) (n : Nat) :
    execTimes i (n + 1) s = execTimes i n t := by
  rw [execTimes, h]

/-- The words of a run of draws do not come from the responses. -/
theorem draw_words_withResponses (u : UnitId) (n : Nat) (s : State) (before : List Response) :
    (draw u n (s.withResponses before)).1 = (draw u n s).1 :=
  draw_words_congr n (sameUnit_withResponses s before u)

/-- Successive `NEXT` answer the words of a run of draws, each in a response of its own. -/
theorem execTimes_nextOf {u : UnitId} (n : Nat) {s : State} (hp : s.payload = []) (hv : s.valid.get u = true) :
    execTimes (nextOf u) n s =
      .next ((draw u n s).2.withResponses (s.responses ++ (draw u n s).1.map fun w => ⟨.ok, [w]⟩)) := by
  induction n generalizing s with
  | zero => simp [execTimes, State.withResponses]
  | succ n ih =>
    have hanswer := answer_eq_withResponses ((nextUnit_payload u s).trans hp) .ok [(nextUnit u s).1]
    rw [execTimes_succ (exec_nextOf hp hv), ih (answer_payload ..) (by simpa using hv), hanswer, draw_withResponses,
      draw_words_withResponses, draw_succ]
    simp [State.withResponses]

/-- Settles O39: both answer the words of one run of draws and leave the state it leaves. -/
theorem genIsRepeatedNext : Obligations.GenIsRepeatedNext := by
  intro u n s hp hv
  refine ⟨(draw u n s).1, (draw u n s).2, ?_, execTimes_nextOf n hp hv, draw_length u n s⟩
  rw [exec_genOf n hp hv, answer_eq_withResponses ((draw_payload u n s).trans hp), draw_responses, State.withResponses]

/-! ## Two `GEN` in a row (R115 item 2) -/

/-- A run of `a + b` draws is a run of `a` and, from where it ends, a run of `b`. -/
theorem draw_add (u : UnitId) (a b : Nat) (s : State) : draw u (a + b) s =
    ((draw u a s).1 ++ (draw u b (draw u a s).2).1, (draw u b (draw u a s).2).2) := by
  induction a generalizing s with
  | zero => rw [Nat.zero_add, draw_zero, List.nil_append]
  | succ a ih => rw [Nat.succ_add, draw_succ, ih, draw_succ, List.cons_append]

/-- Settles O40: the second `GEN` starts from the state the first one leaves, where the draws of the sum go on. -/
theorem genSplits : Obligations.GenSplits := by
  intro u a b s hp hv
  have hanswer := answer_eq_withResponses ((draw_payload u a s).trans hp) .ok (draw u a s).1
  refine ⟨(draw u a s).1, (draw u b (draw u a s).2).1, _, _, exec_genOf a hp hv, by simp,
    exec_genOf b (answer_payload ..) (by simpa using hv), ?_, ?_⟩
  · rw [hanswer, draw_words_withResponses]
    simp
  · rw [exec_genOf (a + b) hp hv, draw_add, hanswer, draw_withResponses]
    simp [State.answer, State.withResponses]

end Sys2Proof.Machine

/-! # Errors, and that every step completes (R120 to R129) -/

namespace Sys2Proof.Machine

open Sys2Proof Sys2Proof.Claims

/-! ## Which errors the checks of a decoded instruction can give (R122, R123) -/

section
variable {i : Instr} (payload : List Word64) (v : ValidFlags)

theorem checkedStatus_ne_errIllegal : checkedStatus i payload v ≠ .errIllegal := by
  unfold checkedStatus
  split_ifs <;> decide

/-- An instruction that reads no unit never meets the check of step 3. -/
theorem checkedStatus_ne_errUninit (h : neededUnit i = none) : checkedStatus i payload v ≠ .errUninit := by
  unfold checkedStatus
  split_ifs with hp hn
  · decide
  · simp [h] at hn
  · decide

end

/-- Only `LDS` takes a payload (R41, R44). -/
theorem payloadWords_of_not_lds {i : Instr} (h : ∀ u, i ≠ ldsOf u) : payloadWords i = 0 := by
  induction i using instr_cases_by_operation with
  | lds u => exact absurd rfl (h u)
  | jump u i hi => exact payloadWords_jumpOf hi
  | next u | rds u | seed target source | gen u n | size u => simp

/-! ## A command that ends in an error -/

/-- A command that fails a check of R47 is answered with the status of that check and changes nothing else. -/
theorem step_command_error {s : State} {c : Command} {rest : List Input} (hin : s.input = .command c :: rest)
    (herr : statusOf s.valid c ≠ .ok) :
    step s = .next (answered { s with input := rest } (statusOf s.valid c) []) := by
  obtain ⟨t, data, hstep, -, hresp⟩ := step_command_answers hin
  rw [hstep]
  rcases step_command_cases hin hstep with ⟨st, -, rfl⟩ | ⟨i, hd, hp, hv, -⟩
  · obtain ⟨rfl, -⟩ : st = statusOf s.valid c ∧ [] = data := by simpa using hresp
    simp only [acceptCommand, dropInput, State.answer, answered, hin, List.tail_cons]
  · exact absurd ((statusOf_of_legal hd s.valid).trans (checkedStatus_of_checked hp hv)) herr

/-- Settles O12: the words of R121 fail step 1 of R47, and any other word decodes, so that only steps 2 and 3 can refuse
it. -/
theorem illegalWordsAreRefused : Obligations.IllegalWordsAreRefused := by
  intro s c rest hin
  constructor
  · intro hillegal
    have hstatus := statusOf_of_illegalWord hillegal s.valid
    rw [step_command_error hin (by simp [hstatus]), hstatus]
  · intro hlegal
    obtain ⟨t, data, hstep, -, hresp⟩ := step_command_answers hin
    refine ⟨t, _, hstep, hresp, ?_⟩
    cases hd : decode c.word with
    | error e => exact absurd (illegalWord_of_decode_error hd) hlegal
    | ok i => exact statusOf_of_legal hd s.valid ▸ checkedStatus_ne_errIllegal c.payload s.valid

/-- Settles O13: `LDS` takes as many words as its unit has, every other instruction none. -/
theorem wrongPayloadLengthIsRefused : Obligations.WrongPayloadLengthIsRefused := by
  refine ⟨fun u s hp => exec_of_wrong_payload ?_, fun i s hi hp => exec_of_wrong_payload ?_⟩
  · cases u <;> exact hp
  · rwa [payloadWords_of_not_lds hi]

/-- An instruction that takes no payload and reads a unit not constructed is refused (R123). -/
theorem exec_of_needed_unconstructed {i : Instr} {s : State} {u : UnitId} (hn : neededUnit i = some u)
    (hp : s.payload = []) (hv : s.valid.get u = false) : exec i s = .next (answered s .errUninit []) :=
  exec_of_unconstructed (by simp [hp, payloadWords_of_neededUnit hn]) hn hv

/-- An instruction that reads no unit is answered with another status than `ERR_UNINIT` (R123). -/
theorem exec_status_ne_errUninit {i : Instr} {s t : State} (hn : neededUnit i = none) (h : exec i s = .next t) :
    ∃ st data, t.responses = s.responses ++ [⟨st, data⟩] ∧ st ≠ .errUninit := by
  obtain ⟨t', data, hexec, -, hresp⟩ := exec_answers i s
  cases hexec.symm.trans h
  exact ⟨_, data, hresp, checkedStatus_ne_errUninit s.payload s.valid hn⟩

/-- Settles O14: step 3 of R47 looks at the needed unit, which is the unit itself, the source of `SEED`, or none. -/
theorem unconstructedUnitIsRefused : Obligations.UnconstructedUnitIsRefused := by
  refine ⟨fun u s hp hv => ?refused, fun u s t h => ?never, fun target source s hp hv => ?seed, fun u => ?reset⟩
  case refused =>
    have hrefused {i : Instr} (hn : neededUnit i = some u) := exec_of_needed_unconstructed hn hp hv
    exact ⟨hrefused (neededUnit_nextOf u), fun i hi => hrefused (neededUnit_jumpOf hi), hrefused (neededUnit_rdsOf u),
      fun n => hrefused (neededUnit_genOf u n), fun target => hrefused (neededUnit_seedOf target u)⟩
  case never =>
    rcases h with h | h
    · exact exec_status_ne_errUninit (neededUnit_sizeQueryOf u) h
    · exact exec_status_ne_errUninit (neededUnit_ldsOf u) h
  case seed => exact ⟨_, exec_seedOf hp hv, by simp⟩
  case reset => exact get_none_valid u

/-- Settles O15: one step on a command appends the response with the status of R47. -/
theorem statusFollowsDecodingProcedure : Obligations.StatusFollowsDecodingProcedure := by
  intro s c rest hin
  obtain ⟨t, data, hstep, -, hresp⟩ := step_command_answers hin
  exact ⟨t, data, hstep, hresp⟩

/-- Settles O16: after an error the flags are as before, so the command meets the same check when it is sent again. -/
theorem errorsChangeNothing : Obligations.ErrorsChangeNothing := by
  intro s t c rest hin hstep
  by_cases hok : statusOf s.valid c = .ok
  · obtain ⟨t', data, hstep', -, hresp⟩ := step_command_answers hin
    cases hstep'.symm.trans hstep
    exact ⟨_, hresp, rfl, fun herr => absurd hok herr⟩
  · cases (step_command_error hin hok).symm.trans hstep
    exact ⟨⟨statusOf s.valid c, []⟩, rfl, rfl, fun _ => ⟨rfl, rfl, fun rest' => ⟨_, step_command_error rfl hok, rfl⟩⟩⟩

/-! ## Every instruction and every step completes (R128, R129) -/

/-- Settles O17: past its checks an instruction answers its effect's data words. -/
theorem everyCheckedCommandCompletes : Obligations.EveryCheckedCommandCompletes := by
  intro i s hp hv
  exact ⟨_, _, exec_of_checked hp hv, by simp, effectOf_length i s, rfl, by simp⟩

/-- Settles O7: a step takes the oldest input, and there is none. -/
theorem idleBlockHoldsItsState : Obligations.IdleBlockHoldsItsState := fun _ => step_idle

/-- Settles O10, by the input the step takes. -/
theorem blockNeverStops : Obligations.BlockNeverStops := by
  intro s
  cases hin : s.input with
  | nil => exact ⟨s, step_idle hin⟩
  | cons x rest =>
    cases x with
    | reset => exact ⟨_, step_reset hin⟩
    | resetDuring c => exact ⟨_, step_resetDuring hin⟩
    | command c =>
      obtain ⟨t, -, hstep, -, -⟩ := step_command_answers hin
      exact ⟨t, hstep⟩

end Sys2Proof.Machine

/-! # Reset (R140, R141, R157) -/

namespace Sys2Proof.Machine

open Sys2Proof Sys2Proof.Claims

/-- Both forms of the reset input take the same step: the block is reset and the input leaves the queue (R140, R141). -/
theorem step_of_reset_input {s : State} {rest : List Input}
    (h : s.input = .reset :: rest ∨ ∃ c, s.input = .resetDuring c :: rest) :
    step s = .next (resetBlock (dropInput s)) ∧ (dropInput s).input = rest := by
  rcases h with h | ⟨c, h⟩
  · exact ⟨step_reset h, congrArg List.tail h⟩
  · exact ⟨step_resetDuring h, congrArg List.tail h⟩

/-- Settles O8: either form of the reset input resets the block, which clears what the rule says and keeps the host's lists. -/
theorem resetInputRule : Obligations.ResetInputRule := by
  intro s rest h
  obtain ⟨hstep, hrest⟩ := step_of_reset_input h
  exact ⟨_, hstep, resetBlock_valid _, resetBlock_cursor _, hrest, resetBlock_payload _, resetBlock_responses _⟩

/-- Settles O19: at reset there is no payload and no response. -/
theorem quiescentAfterReset : Obligations.QuiescentAfterReset := ⟨rfl, fun _ hr => absurd hr List.not_mem_nil⟩

end Sys2Proof.Machine

/-! # A saved state resumes (R62, R72, R82, R91, R92, R96, R154) -/

namespace Sys2Proof.Machine

open Sys2Proof Sys2Proof.Claims

/-! ## What `LDS` leaves and what `RDS` has answered -/

theorem exec_ldsOf {u : UnitId} {t : State} (hlen : t.payload.length = u.stateSize) :
    exec (ldsOf u) t = .next ((construct u t.payload t).answer .ok []) := by
  rw [exec_of_checked (by rw [hlen, payloadWords_ldsOf]) (by simp), effectOf_ldsOf]

/-- The words of an `OK` answer of `RDS` are the read-out. -/
theorem words_of_exec_rdsOf {u : UnitId} {s : State} {words : List Word64} (hp : s.payload = [])
    (hv : s.valid.get u = true) (h : exec (rdsOf u) s = .next (answered s .ok words)) : words = readOut u s := by
  have hstate : s.answer .ok (readOut u s) = answered s .ok words :=
    Host.Outcome.next.inj ((exec_rdsOf hp hv).symm.trans h)
  have hresp : s.responses ++ [⟨.ok, readOut u s⟩] = s.responses ++ [⟨.ok, words⟩] := congrArg State.responses hstate
  simpa using hresp.symm

/-- A load after which the draws are those of `s` resumes the outputs of `s`. -/
theorem exec_ldsOf_resumes {u : UnitId} {s t : State} {n : Nat} (hlen : t.payload.length = u.stateSize)
    (hdraw : (draw u n (construct u t.payload t)).1 = (draw u n s).1) :
    ∃ t' : State, exec (ldsOf u) t = .next t' ∧ t'.valid.get u = true ∧
      ((List.range n).map fun k => output u k t') = (List.range n).map fun k => output u k s := by
  refine ⟨_, exec_ldsOf hlen, ?_, ?_⟩
  · rw [answer_valid, construct_valid _ _ _ hlen, get_mark_self]
  · have hanswer := draw_words_congr n (sameUnit_answer (sameUnit_refl u (construct u t.payload t)) .ok [])
    rw [hdraw] at hanswer
    simpa only [draw_eq_outputs] using hanswer.symm

/-! ## The units without a cursor -/

theorem readOut_length {u : UnitId} (h : u ≠ .xs1024) (s : State) : (readOut u s).length = u.stateSize := by
  cases u with
  | xs1024 => exact absurd rfl h
  | sm64 | xs128 | xo128 => rfl

/-- The read-out of a unit without a cursor is all of its state. -/
theorem sameUnit_construct_readOut {u : UnitId} (h : u ≠ .xs1024) (s t : State) :
    SameUnit u (construct u (readOut u s) t) s := by
  cases u with
  | xs1024 => exact absurd rfl h
  | sm64 | xs128 | xo128 => rfl

/-! ## `XS1024`, by its view -/

theorem readOut_xs1024_word (s : State) {i : Nat} (hi : i < 16) : (readOut .xs1024 s).getD i 0 = s.xs1024.s[i] := by
  rw [readOut, List.getD_append _ _ _ _ (by simpa using hi), List.getD_eq_getElem _ _ (by simpa using hi),
    Vector.getElem_toList]

theorem readOut_xs1024_cursor (s : State) : ((readOut .xs1024 s).getD 16 0).toNat = s.xs1024.p.toNat := by
  have hlast : (readOut .xs1024 s).getD 16 0 = s.xs1024.p.setWidth 64 := by simp [readOut]
  rw [hlast, BitVec.toNat_setWidth_of_le (by decide)]

/-- The saved words, rotated by the saved cursor, are the view (R96). -/
theorem rotated_readOut_xs1024 (s : State) :
    ((List.range 16).map fun j =>
        (readOut .xs1024 s).getD ((j + ((readOut .xs1024 s).getD 16 0).toNat) % 16) 0) =
      (rotatedView s.xs1024).toList := by
  apply List.ext_getElem
  · simp
  · intro j _ _
    have hplace : (j + s.xs1024.p.toNat) % 16 < 16 := Nat.mod_lt _ (by decide)
    rw [List.getElem_map, List.getElem_range, readOut_xs1024_cursor, readOut_xs1024_word s hplace]
    simp [rotatedView, wordAt, Fin.val_add]

/-- Sixteen words loaded from cursor 0 are the view (R91, R96). -/
theorem rotatedView_construct_toList (v : Vector Word64 16) (t : State) :
    rotatedView (construct .xs1024 v.toList t).xs1024 = v := by
  have hregs : (construct .xs1024 v.toList t).xs1024 = ⟨v, 0⟩ := congrArg State.xs1024 (dif_pos v.length_toList)
  rw [hregs, rotatedView_of_cursor_zero]

/-- The outputs of XS1024 are a function of the view alone (R96). -/
theorem draw_xs1024_words_of_view (n : Nat) {s t : State} (h : rotatedView s.xs1024 = rotatedView t.xs1024) :
    (draw .xs1024 n s).1 = (draw .xs1024 n t).1 := by
  simp only [draw_xs1024_eq, nextXs1024_output_of_view, rotatedView_iterate_advanceXs1024, h]

/-- Settles O53: a unit without a cursor is constructed as it was, and XS1024 with the view it had, from cursor 0. -/
theorem savedStateResumes : Obligations.SavedStateResumes := by
  intro u s t words n hp hv hread hload
  obtain rfl := words_of_exec_rdsOf hp hv hread
  by_cases hu : u = .xs1024
  · subst hu
    rw [if_pos rfl, rotated_readOut_xs1024] at hload
    refine exec_ldsOf_resumes (by rw [hload, Vector.length_toList]; rfl) ?_
    rw [hload]
    exact draw_xs1024_words_of_view n (rotatedView_construct_toList _ t)
  · rw [if_neg hu] at hload
    refine exec_ldsOf_resumes (by rw [hload, readOut_length hu]) ?_
    rw [hload]
    exact draw_words_congr n (sameUnit_construct_readOut hu s t)

end Sys2Proof.Machine
